-- ==== Sys2Proof/Word.lean ====
section
/-! DEFINITION. The word types of the block (R6, R54, R60, R111): a value the spec numbers as bits is a bit vector. -/

namespace Sys2Proof

/-- A 32-bit instruction word `w[31:0]` (R110). -/
abbrev Word := BitVec 32

/-- A 64-bit address, info word or return value (R60, R62, R63). -/
abbrev Quad := BitVec 64

/-- The 6-bit opcode field `w[31:26]` (R111). -/
abbrev Opcode := BitVec 6

/-- The 26-bit function-code component of a key, zero-extended (R54, R116). -/
abbrev FnCode := BitVec 26

/-- One byte, as the fetch unit reads it (R91). -/
abbrev Byte := BitVec 8

end Sys2Proof
end

