-- ==== Sys2Proof/Config.lean ====
section
/-! DEFINITION. The implementation parameters of R5 as plain data, the closed types they are made of, and the free
value. Every parameter is a field of `Params`; a state carries one `Params`, and no operation writes it (log 4). The
default values stand in Sys2Proof/Machine/Defaults.lean. -/

namespace Sys2Proof

/-- A platform variant (R5, R51, D40: an OPEN type with a distinguished base member). The tag names the variant. -/
structure Platform where
  tag : Nat
  deriving DecidableEq, Repr

/-- FormatClass (R68). -/
inductive FormatClass
  | operate | memory | branch | pal | float | memoryBarrier | vector | jump | unknown
  deriving DecidableEq, Repr

/-- ExecUnit (R69). -/
inductive ExecUnit
  | integer | float | memory | controlPal | hwInternal | vector | unknown
  deriving DecidableEq, Repr

/-- MemoryFaultType (R66). -/
inductive MemoryFaultType
  | none | dtbMissRead | dtbMissWrite | acvRead | acvWrite | faultOnRead | faultOnWrite | faultOnExecute
  deriving DecidableEq, Repr

/-- The order in which the fetch unit builds a word from four bytes (R91). -/
inductive ByteOrder
  | little | big
  deriving DecidableEq, Repr

/-- A field of the word: its lowest bit and its width (the parameters FC_MISC and FC_JUMP of R115). -/
structure BitField where
  lo : Nat
  width : Nat
  deriving DecidableEq, Repr

/-- VectorKey, the domain of `vectorOf` (R72): the twelve trap classes other than NONE, and INTERRUPT and AST. -/
inductive VectorKey
  | arithmetic | itbMiss | dtbMiss | itbFault | dtbFault | itbAcv | dtbAcv | fpDisabled | illegalInstruction
  | machineCheck | alignment | doubleFault | interrupt | ast
  deriving DecidableEq, Repr

/-- The parameters of R5. Tables are lists, indexed by the opcode or code they map. -/
structure Params where
  /-- FORMAT_OF, by opcode (R112). -/
  formatOf : List FormatClass
  /-- UNIT_OF, by opcode (R270). -/
  unitOf : List ExecUnit
  /-- HW_INTERNAL (R117). -/
  hwInternal : List Opcode
  /-- FP_OPCODES (D11). -/
  fpOpcodes : List Opcode
  /-- HWINT_REQUIRES_PAL (D10). -/
  hwintRequiresPal : Bool
  /-- FC_MISC: the function code of the memory-with-barrier class (R115). -/
  fcMisc : BitField
  /-- FC_JUMP: the function code of the jump class (R115). -/
  fcJump : BitField
  /-- MMSTAT_TABLE, by code: the type for a read and for a write (R310); the row of the reserved code 7 is not read (log 34). -/
  mmStat : List (MemoryFaultType × MemoryFaultType)
  /-- ARITH_W: the width of the arithmetic exception word (D17). -/
  arithW : Nat
  /-- VEC_W: the width of a vector id (D21). -/
  vecW : Nat
  /-- `vectorOf`, by the position of the key in R72's list (R435). -/
  vectors : List Nat
  /-- IPI_LEVEL (D26). -/
  ipiLevel : BitVec 5
  /-- NUM_CPUS (R53). -/
  numCpus : Nat
  /-- DEFAULT_CPU_COUNT (R53). -/
  defaultCpuCount : Nat
  /-- RESET_IPL (R33). -/
  resetIpl : BitVec 5
  /-- IER_RESET (R39). -/
  ierReset : BitVec 32
  /-- PAL_BASE_RESET (R43). -/
  palBaseReset : Quad
  /-- PAL_BASE_MASK (R43). -/
  palBaseMask : Quad
  /-- FETCH_BYTE_ORDER (R91). -/
  fetchByteOrder : ByteOrder
  /-- RESET_PC, owned by the run loop and the platform (R502). -/
  resetPc : Quad
  deriving DecidableEq, Repr

/-- The free value of R99: what the n-th racing read of IPI_DATA returns. It has no body, so no proof can see what it
is; a step applies it to the counter `draws` of the state and advances the counter (log 12). -/
opaque Config.freeWord : Nat → Quad

end Sys2Proof
end

