-- ==== Sys2Proof/Syntax.lean ====
section
/-! DEFINITION. The instructions: one constructor per primary opcode, in the order of R118 (spec/opcode_table.json). The
fields cut `w[25:0]` at the function-code field of the opcode's default format class (R114, R115); what lies beside that
field is kept whole, because it reaches the `info` word of a trap (R153), and no rule of the block reads it (R121; log 23). -/

namespace Sys2Proof

inductive Instr
  /-- opcode 0x00 (R200), class PAL: function code `w[25:0]`. -/
  | callPal (fc : BitVec 26)
  /-- opcode 0x01 (R201), class UNKNOWN: no function code; `bits` is `w[25:0]`. -/
  | opc01 (bits : BitVec 26)
  /-- opcode 0x02 (R202), class UNKNOWN: no function code; `bits` is `w[25:0]`. -/
  | opc02 (bits : BitVec 26)
  /-- opcode 0x03 (R203), class UNKNOWN: no function code; `bits` is `w[25:0]`. -/
  | opc03 (bits : BitVec 26)
  /-- opcode 0x04 (R204), class UNKNOWN: no function code; `bits` is `w[25:0]`. -/
  | opc04 (bits : BitVec 26)
  /-- opcode 0x05 (R205), class UNKNOWN: no function code; `bits` is `w[25:0]`. -/
  | opc05 (bits : BitVec 26)
  /-- opcode 0x06 (R206), class UNKNOWN: no function code; `bits` is `w[25:0]`. -/
  | opc06 (bits : BitVec 26)
  /-- opcode 0x07 (R207), class UNKNOWN: no function code; `bits` is `w[25:0]`. -/
  | opc07 (bits : BitVec 26)
  /-- opcode 0x08 (R208), class MEMORY: function code 0; `bits` is `w[25:0]`. -/
  | lda (bits : BitVec 26)
  /-- opcode 0x09 (R209), class MEMORY: function code 0; `bits` is `w[25:0]`. -/
  | ldah (bits : BitVec 26)
  /-- opcode 0x0A (R210), class MEMORY: function code 0; `bits` is `w[25:0]`. -/
  | ldbu (bits : BitVec 26)
  /-- opcode 0x0B (R211), class MEMORY: function code 0; `bits` is `w[25:0]`. -/
  | ldqU (bits : BitVec 26)
  /-- opcode 0x0C (R212), class MEMORY: function code 0; `bits` is `w[25:0]`. -/
  | ldwu (bits : BitVec 26)
  /-- opcode 0x0D (R213), class MEMORY: function code 0; `bits` is `w[25:0]`. -/
  | stw (bits : BitVec 26)
  /-- opcode 0x0E (R214), class MEMORY: function code 0; `bits` is `w[25:0]`. -/
  | stb (bits : BitVec 26)
  /-- opcode 0x0F (R215), class MEMORY: function code 0; `bits` is `w[25:0]`. -/
  | stqU (bits : BitVec 26)
  /-- opcode 0x10 (R216), class OPERATE: `hi` is `w[25:12]`, function code `w[11:5]`, `lo` is `w[4:0]`. -/
  | inta (hi : BitVec 14) (fc : BitVec 7) (lo : BitVec 5)
  /-- opcode 0x11 (R217), class OPERATE: `hi` is `w[25:12]`, function code `w[11:5]`, `lo` is `w[4:0]`. -/
  | intl (hi : BitVec 14) (fc : BitVec 7) (lo : BitVec 5)
  /-- opcode 0x12 (R218), class OPERATE: `hi` is `w[25:12]`, function code `w[11:5]`, `lo` is `w[4:0]`. -/
  | ints (hi : BitVec 14) (fc : BitVec 7) (lo : BitVec 5)
  /-- opcode 0x13 (R219), class OPERATE: `hi` is `w[25:12]`, function code `w[11:5]`, `lo` is `w[4:0]`. -/
  | intm (hi : BitVec 14) (fc : BitVec 7) (lo : BitVec 5)
  /-- opcode 0x14 (R220), class FLOAT: `hi` is `w[25:16]`, function code `w[15:5]`, `lo` is `w[4:0]`. -/
  | itfp (hi : BitVec 10) (fc : BitVec 11) (lo : BitVec 5)
  /-- opcode 0x15 (R221), class FLOAT: `hi` is `w[25:16]`, function code `w[15:5]`, `lo` is `w[4:0]`. -/
  | fltv (hi : BitVec 10) (fc : BitVec 11) (lo : BitVec 5)
  /-- opcode 0x16 (R222), class FLOAT: `hi` is `w[25:16]`, function code `w[15:5]`, `lo` is `w[4:0]`. -/
  | flti (hi : BitVec 10) (fc : BitVec 11) (lo : BitVec 5)
  /-- opcode 0x17 (R223), class FLOAT: `hi` is `w[25:16]`, function code `w[15:5]`, `lo` is `w[4:0]`. -/
  | fltl (hi : BitVec 10) (fc : BitVec 11) (lo : BitVec 5)
  /-- opcode 0x18 (R224), class MEMORY_BARRIER: `hi` is `w[25:16]`, function code `w[15:0]`. -/
  | misc (hi : BitVec 10) (fc : BitVec 16)
  /-- opcode 0x19 (R225), class PAL: function code `w[25:0]`. -/
  | hwMfpr (fc : BitVec 26)
  /-- opcode 0x1A (R226), class JUMP: `hi` is `w[25:16]`, function code `w[15:14]`, `lo` is `w[13:0]`. -/
  | jsr (hi : BitVec 10) (fc : BitVec 2) (lo : BitVec 14)
  /-- opcode 0x1B (R227), class PAL: function code `w[25:0]`. -/
  | hwLd (fc : BitVec 26)
  /-- opcode 0x1C (R228), class OPERATE: `hi` is `w[25:12]`, function code `w[11:5]`, `lo` is `w[4:0]`. -/
  | fpti (hi : BitVec 14) (fc : BitVec 7) (lo : BitVec 5)
  /-- opcode 0x1D (R229), class PAL: function code `w[25:0]`. -/
  | hwMtpr (fc : BitVec 26)
  /-- opcode 0x1E (R230), class PAL: function code `w[25:0]`. -/
  | hwRei (fc : BitVec 26)
  /-- opcode 0x1F (R231), class PAL: function code `w[25:0]`. -/
  | hwSt (fc : BitVec 26)
  /-- opcode 0x20 (R232), class MEMORY: function code 0; `bits` is `w[25:0]`. -/
  | ldf (bits : BitVec 26)
  /-- opcode 0x21 (R233), class MEMORY: function code 0; `bits` is `w[25:0]`. -/
  | ldg (bits : BitVec 26)
  /-- opcode 0x22 (R234), class MEMORY: function code 0; `bits` is `w[25:0]`. -/
  | lds (bits : BitVec 26)
  /-- opcode 0x23 (R235), class MEMORY: function code 0; `bits` is `w[25:0]`. -/
  | ldt (bits : BitVec 26)
  /-- opcode 0x24 (R236), class MEMORY: function code 0; `bits` is `w[25:0]`. -/
  | stf (bits : BitVec 26)
  /-- opcode 0x25 (R237), class MEMORY: function code 0; `bits` is `w[25:0]`. -/
  | stg (bits : BitVec 26)
  /-- opcode 0x26 (R238), class MEMORY: function code 0; `bits` is `w[25:0]`. -/
  | sts (bits : BitVec 26)
  /-- opcode 0x27 (R239), class MEMORY: function code 0; `bits` is `w[25:0]`. -/
  | stt (bits : BitVec 26)
  /-- opcode 0x28 (R240), class MEMORY: function code 0; `bits` is `w[25:0]`. -/
  | ldl (bits : BitVec 26)
  /-- opcode 0x29 (R241), class MEMORY: function code 0; `bits` is `w[25:0]`. -/
  | ldq (bits : BitVec 26)
  /-- opcode 0x2A (R242), class MEMORY: function code 0; `bits` is `w[25:0]`. -/
  | ldlL (bits : BitVec 26)
  /-- opcode 0x2B (R243), class MEMORY: function code 0; `bits` is `w[25:0]`. -/
  | ldqL (bits : BitVec 26)
  /-- opcode 0x2C (R244), class MEMORY: function code 0; `bits` is `w[25:0]`. -/
  | stl (bits : BitVec 26)
  /-- opcode 0x2D (R245), class MEMORY: function code 0; `bits` is `w[25:0]`. -/
  | stq (bits : BitVec 26)
  /-- opcode 0x2E (R246), class MEMORY: function code 0; `bits` is `w[25:0]`. -/
  | stlC (bits : BitVec 26)
  /-- opcode 0x2F (R247), class MEMORY: function code 0; `bits` is `w[25:0]`. -/
  | stqC (bits : BitVec 26)
  /-- opcode 0x30 (R248), class BRANCH: function code 0; `bits` is `w[25:0]`. -/
  | br (bits : BitVec 26)
  /-- opcode 0x31 (R249), class BRANCH: function code 0; `bits` is `w[25:0]`. -/
  | fbeq (bits : BitVec 26)
  /-- opcode 0x32 (R250), class BRANCH: function code 0; `bits` is `w[25:0]`. -/
  | fblt (bits : BitVec 26)
  /-- opcode 0x33 (R251), class BRANCH: function code 0; `bits` is `w[25:0]`. -/
  | fble (bits : BitVec 26)
  /-- opcode 0x34 (R252), class BRANCH: function code 0; `bits` is `w[25:0]`. -/
  | bsr (bits : BitVec 26)
  /-- opcode 0x35 (R253), class BRANCH: function code 0; `bits` is `w[25:0]`. -/
  | fbne (bits : BitVec 26)
  /-- opcode 0x36 (R254), class BRANCH: function code 0; `bits` is `w[25:0]`. -/
  | fbge (bits : BitVec 26)
  /-- opcode 0x37 (R255), class BRANCH: function code 0; `bits` is `w[25:0]`. -/
  | fbgt (bits : BitVec 26)
  /-- opcode 0x38 (R256), class BRANCH: function code 0; `bits` is `w[25:0]`. -/
  | blbc (bits : BitVec 26)
  /-- opcode 0x39 (R257), class BRANCH: function code 0; `bits` is `w[25:0]`. -/
  | beq (bits : BitVec 26)
  /-- opcode 0x3A (R258), class BRANCH: function code 0; `bits` is `w[25:0]`. -/
  | blt (bits : BitVec 26)
  /-- opcode 0x3B (R259), class BRANCH: function code 0; `bits` is `w[25:0]`. -/
  | ble (bits : BitVec 26)
  /-- opcode 0x3C (R260), class BRANCH: function code 0; `bits` is `w[25:0]`. -/
  | blbs (bits : BitVec 26)
  /-- opcode 0x3D (R261), class BRANCH: function code 0; `bits` is `w[25:0]`. -/
  | bne (bits : BitVec 26)
  /-- opcode 0x3E (R262), class BRANCH: function code 0; `bits` is `w[25:0]`. -/
  | bge (bits : BitVec 26)
  /-- opcode 0x3F (R263), class BRANCH: function code 0; `bits` is `w[25:0]`. -/
  | bgt (bits : BitVec 26)
  deriving DecidableEq, Repr

end Sys2Proof
end

