-- ==== Sys2Proof/WellFormed.lean ====
section
/-! DEFINITION. Well-formedness. Every field of `Instr` has exactly its width in the encoding, so no term of `Instr` is
ill-formed and the types are the check. What can be ill-formed is a `Params`: its tables must be total over the codes
they map (R112, R270, R310, R435) and its fields must fit the block (R117, R316, R53). -/

namespace Sys2Proof

/-- FORMAT_OF is total over the 64 opcodes (R112). -/
def Params.formatTotal (p : Params) : Bool := p.formatOf.length == 64

/-- UNIT_OF is total over the 64 opcodes (R270). -/
def Params.unitTotal (p : Params) : Bool := p.unitOf.length == 64

/-- HW_INTERNAL has five members, none named twice, and the jump-family opcode 0x1A is not one of them (R117). -/
def Params.hwInternalFive (p : Params) : Bool :=
  p.hwInternal.length == 5 && decide p.hwInternal.Nodup && !p.hwInternal.contains 0x1A#6

/-- MMSTAT_TABLE is total over the eight codes (R310). -/
def Params.mmStatTotal (p : Params) : Bool := p.mmStat.length == 8

/-- The arithmetic word fits the 64-bit info word it is zero-extended to (R316). -/
def Params.arithFits (p : Params) : Bool := decide (p.arithW ≤ 64)

/-- `vectorOf` is total over its fourteen keys (R435, R72). -/
def Params.vectorsTotal (p : Params) : Bool := p.vectors.length == 14

/-- Both CPU counts name at least one CPU (R53, R452). -/
def Params.cpusNamed (p : Params) : Bool := decide (0 < p.numCpus) && decide (0 < p.defaultCpuCount)

/-- The function-code fields of R115 lie inside the 26 bits below the opcode. -/
def Params.fieldsInside (p : Params) : Bool :=
  decide (p.fcMisc.lo + p.fcMisc.width ≤ 26) && decide (p.fcJump.lo + p.fcJump.width ≤ 26)

/-- All checks of a parameter record. -/
def Params.wf (p : Params) : Bool :=
  p.formatTotal && p.unitTotal && p.hwInternalFive && p.mmStatTotal && p.arithFits && p.vectorsTotal &&
    p.cpusNamed && p.fieldsInside

end Sys2Proof
end

