-- ==== Sys2Proof/Decode.lean ====
section
/-! DEFINITION. Decoding a word into its opcode group and encoding it back (R110-R118). A word of 32 bits always decodes,
since every one of the 64 opcodes is a row of the table; the only rejection is a byte string shorter than a word. Whether
a decoded word is LEGAL is the decode stage's question (R120), not this file's. -/

namespace Sys2Proof

/-- The opcode field `w[31:26]` (R111). -/
def opcodeOf (w : Word) : Opcode := w.extractLsb' 26 6

/-- The other 26 bits, `w[25:0]` (R114). -/
def restOf (w : Word) : BitVec 26 := w.extractLsb' 0 26

/-- The instruction of an opcode and its 26 other bits: the table of R118. -/
def Instr.ofFields (op : Opcode) (r : BitVec 26) : Instr :=
  match op.toNat with
  | 0 => .callPal r
  | 1 => .opc01 r
  | 2 => .opc02 r
  | 3 => .opc03 r
  | 4 => .opc04 r
  | 5 => .opc05 r
  | 6 => .opc06 r
  | 7 => .opc07 r
  | 8 => .lda r
  | 9 => .ldah r
  | 10 => .ldbu r
  | 11 => .ldqU r
  | 12 => .ldwu r
  | 13 => .stw r
  | 14 => .stb r
  | 15 => .stqU r
  | 16 => .inta (r.extractLsb' 12 14) (r.extractLsb' 5 7) (r.extractLsb' 0 5)
  | 17 => .intl (r.extractLsb' 12 14) (r.extractLsb' 5 7) (r.extractLsb' 0 5)
  | 18 => .ints (r.extractLsb' 12 14) (r.extractLsb' 5 7) (r.extractLsb' 0 5)
  | 19 => .intm (r.extractLsb' 12 14) (r.extractLsb' 5 7) (r.extractLsb' 0 5)
  | 20 => .itfp (r.extractLsb' 16 10) (r.extractLsb' 5 11) (r.extractLsb' 0 5)
  | 21 => .fltv (r.extractLsb' 16 10) (r.extractLsb' 5 11) (r.extractLsb' 0 5)
  | 22 => .flti (r.extractLsb' 16 10) (r.extractLsb' 5 11) (r.extractLsb' 0 5)
  | 23 => .fltl (r.extractLsb' 16 10) (r.extractLsb' 5 11) (r.extractLsb' 0 5)
  | 24 => .misc (r.extractLsb' 16 10) (r.extractLsb' 0 16)
  | 25 => .hwMfpr r
  | 26 => .jsr (r.extractLsb' 16 10) (r.extractLsb' 14 2) (r.extractLsb' 0 14)
  | 27 => .hwLd r
  | 28 => .fpti (r.extractLsb' 12 14) (r.extractLsb' 5 7) (r.extractLsb' 0 5)
  | 29 => .hwMtpr r
  | 30 => .hwRei r
  | 31 => .hwSt r
  | 32 => .ldf r
  | 33 => .ldg r
  | 34 => .lds r
  | 35 => .ldt r
  | 36 => .stf r
  | 37 => .stg r
  | 38 => .sts r
  | 39 => .stt r
  | 40 => .ldl r
  | 41 => .ldq r
  | 42 => .ldlL r
  | 43 => .ldqL r
  | 44 => .stl r
  | 45 => .stq r
  | 46 => .stlC r
  | 47 => .stqC r
  | 48 => .br r
  | 49 => .fbeq r
  | 50 => .fblt r
  | 51 => .fble r
  | 52 => .bsr r
  | 53 => .fbne r
  | 54 => .fbge r
  | 55 => .fbgt r
  | 56 => .blbc r
  | 57 => .beq r
  | 58 => .blt r
  | 59 => .ble r
  | 60 => .blbs r
  | 61 => .bne r
  | 62 => .bge r
  | _ => .bgt r

/-- The instruction of a word. -/
def decodeWord (w : Word) : Instr := Instr.ofFields (opcodeOf w) (restOf w)

/-- The opcode of an instruction (R118). -/
def Instr.opcode : Instr → Opcode
  | .callPal _ => 0x00#6
  | .opc01 _ => 0x01#6
  | .opc02 _ => 0x02#6
  | .opc03 _ => 0x03#6
  | .opc04 _ => 0x04#6
  | .opc05 _ => 0x05#6
  | .opc06 _ => 0x06#6
  | .opc07 _ => 0x07#6
  | .lda _ => 0x08#6
  | .ldah _ => 0x09#6
  | .ldbu _ => 0x0A#6
  | .ldqU _ => 0x0B#6
  | .ldwu _ => 0x0C#6
  | .stw _ => 0x0D#6
  | .stb _ => 0x0E#6
  | .stqU _ => 0x0F#6
  | .inta _ _ _ => 0x10#6
  | .intl _ _ _ => 0x11#6
  | .ints _ _ _ => 0x12#6
  | .intm _ _ _ => 0x13#6
  | .itfp _ _ _ => 0x14#6
  | .fltv _ _ _ => 0x15#6
  | .flti _ _ _ => 0x16#6
  | .fltl _ _ _ => 0x17#6
  | .misc _ _ => 0x18#6
  | .hwMfpr _ => 0x19#6
  | .jsr _ _ _ => 0x1A#6
  | .hwLd _ => 0x1B#6
  | .fpti _ _ _ => 0x1C#6
  | .hwMtpr _ => 0x1D#6
  | .hwRei _ => 0x1E#6
  | .hwSt _ => 0x1F#6
  | .ldf _ => 0x20#6
  | .ldg _ => 0x21#6
  | .lds _ => 0x22#6
  | .ldt _ => 0x23#6
  | .stf _ => 0x24#6
  | .stg _ => 0x25#6
  | .sts _ => 0x26#6
  | .stt _ => 0x27#6
  | .ldl _ => 0x28#6
  | .ldq _ => 0x29#6
  | .ldlL _ => 0x2A#6
  | .ldqL _ => 0x2B#6
  | .stl _ => 0x2C#6
  | .stq _ => 0x2D#6
  | .stlC _ => 0x2E#6
  | .stqC _ => 0x2F#6
  | .br _ => 0x30#6
  | .fbeq _ => 0x31#6
  | .fblt _ => 0x32#6
  | .fble _ => 0x33#6
  | .bsr _ => 0x34#6
  | .fbne _ => 0x35#6
  | .fbge _ => 0x36#6
  | .fbgt _ => 0x37#6
  | .blbc _ => 0x38#6
  | .beq _ => 0x39#6
  | .blt _ => 0x3A#6
  | .ble _ => 0x3B#6
  | .blbs _ => 0x3C#6
  | .bne _ => 0x3D#6
  | .bge _ => 0x3E#6
  | .bgt _ => 0x3F#6

/-- The 26 bits below the opcode, put together from the fields (R114, R115). -/
def Instr.rest : Instr → BitVec 26
  | .callPal fc => fc
  | .opc01 bits => bits
  | .opc02 bits => bits
  | .opc03 bits => bits
  | .opc04 bits => bits
  | .opc05 bits => bits
  | .opc06 bits => bits
  | .opc07 bits => bits
  | .lda bits => bits
  | .ldah bits => bits
  | .ldbu bits => bits
  | .ldqU bits => bits
  | .ldwu bits => bits
  | .stw bits => bits
  | .stb bits => bits
  | .stqU bits => bits
  | .inta hi fc lo => hi ++ fc ++ lo
  | .intl hi fc lo => hi ++ fc ++ lo
  | .ints hi fc lo => hi ++ fc ++ lo
  | .intm hi fc lo => hi ++ fc ++ lo
  | .itfp hi fc lo => hi ++ fc ++ lo
  | .fltv hi fc lo => hi ++ fc ++ lo
  | .flti hi fc lo => hi ++ fc ++ lo
  | .fltl hi fc lo => hi ++ fc ++ lo
  | .misc hi fc => hi ++ fc
  | .hwMfpr fc => fc
  | .jsr hi fc lo => hi ++ fc ++ lo
  | .hwLd fc => fc
  | .fpti hi fc lo => hi ++ fc ++ lo
  | .hwMtpr fc => fc
  | .hwRei fc => fc
  | .hwSt fc => fc
  | .ldf bits => bits
  | .ldg bits => bits
  | .lds bits => bits
  | .ldt bits => bits
  | .stf bits => bits
  | .stg bits => bits
  | .sts bits => bits
  | .stt bits => bits
  | .ldl bits => bits
  | .ldq bits => bits
  | .ldlL bits => bits
  | .ldqL bits => bits
  | .stl bits => bits
  | .stq bits => bits
  | .stlC bits => bits
  | .stqC bits => bits
  | .br bits => bits
  | .fbeq bits => bits
  | .fblt bits => bits
  | .fble bits => bits
  | .bsr bits => bits
  | .fbne bits => bits
  | .fbge bits => bits
  | .fbgt bits => bits
  | .blbc bits => bits
  | .beq bits => bits
  | .blt bits => bits
  | .ble bits => bits
  | .blbs bits => bits
  | .bne bits => bits
  | .bge bits => bits
  | .bgt bits => bits

/-- The word of an instruction: opcode in `w[31:26]`, the rest below it (R111, R114). -/
def encode (i : Instr) : Word := i.opcode ++ i.rest

/-- The function-code field of an instruction in its opcode's default format class, zero-extended to the key's width
(R114, R115): 0 for the classes that have none. -/
def Instr.fnCode : Instr → FnCode
  | .callPal fc => fc
  | .opc01 _ => 0
  | .opc02 _ => 0
  | .opc03 _ => 0
  | .opc04 _ => 0
  | .opc05 _ => 0
  | .opc06 _ => 0
  | .opc07 _ => 0
  | .lda _ => 0
  | .ldah _ => 0
  | .ldbu _ => 0
  | .ldqU _ => 0
  | .ldwu _ => 0
  | .stw _ => 0
  | .stb _ => 0
  | .stqU _ => 0
  | .inta _ fc _ => fc.setWidth 26
  | .intl _ fc _ => fc.setWidth 26
  | .ints _ fc _ => fc.setWidth 26
  | .intm _ fc _ => fc.setWidth 26
  | .itfp _ fc _ => fc.setWidth 26
  | .fltv _ fc _ => fc.setWidth 26
  | .flti _ fc _ => fc.setWidth 26
  | .fltl _ fc _ => fc.setWidth 26
  | .misc _ fc => fc.setWidth 26
  | .hwMfpr fc => fc
  | .jsr _ fc _ => fc.setWidth 26
  | .hwLd fc => fc
  | .fpti _ fc _ => fc.setWidth 26
  | .hwMtpr fc => fc
  | .hwRei fc => fc
  | .hwSt fc => fc
  | .ldf _ => 0
  | .ldg _ => 0
  | .lds _ => 0
  | .ldt _ => 0
  | .stf _ => 0
  | .stg _ => 0
  | .sts _ => 0
  | .stt _ => 0
  | .ldl _ => 0
  | .ldq _ => 0
  | .ldlL _ => 0
  | .ldqL _ => 0
  | .stl _ => 0
  | .stq _ => 0
  | .stlC _ => 0
  | .stqC _ => 0
  | .br _ => 0
  | .fbeq _ => 0
  | .fblt _ => 0
  | .fble _ => 0
  | .bsr _ => 0
  | .fbne _ => 0
  | .fbge _ => 0
  | .fbgt _ => 0
  | .blbc _ => 0
  | .beq _ => 0
  | .blt _ => 0
  | .ble _ => 0
  | .blbs _ => 0
  | .bne _ => 0
  | .bge _ => 0
  | .bgt _ => 0

/-- The four bytes of a word, the lowest address first (R91). -/
def layWord : ByteOrder → Word → List Byte
  | .little, w => [w.extractLsb' 0 8, w.extractLsb' 8 8, w.extractLsb' 16 8, w.extractLsb' 24 8]
  | .big, w => [w.extractLsb' 24 8, w.extractLsb' 16 8, w.extractLsb' 8 8, w.extractLsb' 0 8]

/-- What the fetch unit builds from four bytes, `b0` at the lowest address (R91: little-endian puts it in `w[7:0]`;
big-endian, in `w[31:24]`: log 24). -/
def assembleWord : ByteOrder → Byte → Byte → Byte → Byte → Word
  | .little, b0, b1, b2, b3 => b3 ++ b2 ++ b1 ++ b0
  | .big, b0, b1, b2, b3 => b0 ++ b1 ++ b2 ++ b3

/-- Why a byte string does not decode. -/
inductive DecodeError
  /-- Fewer than the four bytes of a word are left (R110). -/
  | truncated
  deriving DecidableEq, Repr

/-- Reads one instruction from the bytes at the fetch address and returns what follows it (R91, R110). -/
def decodeBytes (o : ByteOrder) : List Byte → Except DecodeError (Instr × List Byte)
  | b0 :: b1 :: b2 :: b3 :: bs => .ok (decodeWord (assembleWord o b0 b1 b2 b3), bs)
  | _ => .error .truncated

/-- The host's question: the instruction decoded from `w`, whose bits above `nbits` are 0, laid out in memory in the
default fetch byte order. A row wider than the one word an instruction has (R110) does not exist. -/
def decodeTableWord (nbits w : Nat) : Option Instr :=
  if nbits ≤ 32 then
    match decodeBytes .little (layWord .little (BitVec.ofNat 32 (w % 2 ^ nbits))) with
    | .ok (i, _) => some i
    | .error _ => none
  else none

end Sys2Proof
end

