-- ==== Sys2Proof/Machine/Records.lean ====
section
/-! DEFINITION. The records the block holds, produces and consumes (R54-R72, R152, R351), and the operations the agents
ask of it (R13). All plain data. -/

namespace Sys2Proof.Machine

/-! ### Enumerations -/

/-- The kind of an event (R400). -/
inductive EventKind
  | none | exception | interrupt | ast
  deriving DecidableEq, Repr

/-- TrapCode_Class (R67). -/
inductive TrapClass
  | none | arithmetic | itbMiss | dtbMiss | itbFault | dtbFault | itbAcv | dtbAcv | fpDisabled | illegalInstruction
  | machineCheck | alignment | doubleFault
  deriving DecidableEq, Repr

/-- TranslationResult (R65). The type is closed: codes 10-15 cannot be written (R301, I18). -/
inductive TranslationResult
  | success | tlbMiss | accessViolation | nonCanonical | pageNotPresent | faultOnRead | faultOnWrite | faultOnExecute
  | unaligned | busError
  deriving DecidableEq, Repr

/-- The privilege modes (R70). -/
inductive Mode
  | kernel | executive | supervisor | user
  deriving DecidableEq, Repr

/-- PipelineEffect (R342). -/
inductive PipelineEffect
  | tlbModified | iplChanged | memoryBarrier | drainWriteBuffers | pipelineFlush | halt | notifyHalt | contextSwitch
  deriving DecidableEq, Repr

/-! ### The registry's keys and values -/

/-- GrainKey (R54). Two keys are equal iff all three components are. -/
structure GrainKey where
  opcode : Opcode
  fc : FnCode
  platform : Platform
  deriving DecidableEq, Repr

/-- GrainType (R55, R71). The spec's list is open; `other` stands for the members it does not name (log 21). -/
inductive GrainType
  | integer | float | memory | branch | pal | other (n : Nat)
  deriving DecidableEq, Repr

/-- A grain's flags bitset (R55). -/
structure GrainFlags where
  format : FormatClass
  dualIssue : Bool
  serialize : Bool
  deriving DecidableEq, Repr

/-- Grain (R55): opaque to the block, compared only for identity. `handler` names the execute operation, which is
outside the block (R3). -/
structure Grain where
  handler : Nat
  mnemonic : String
  opcode : Opcode
  fc : FnCode
  platform : Platform
  grainType : GrainType
  flags : GrainFlags
  latency : Nat
  throughput : Nat
  deriving DecidableEq, Repr

/-- The Grain Registry (R50): a finite map, in the order of registration. -/
abbrev Registry := List (GrainKey × Grain)

/-- DecodeOut (R152). -/
structure DecodeOut where
  grain : Grain
  opcode : Opcode
  fc : FnCode
  fmt : FormatClass
  unit : ExecUnit
  hwInternal : Bool
  deriving DecidableEq, Repr

/-! ### Events -/

/-- PendingEvent (R60). A vector id is a label of VEC_W bits that no rule computes with (R435): a Nat, since VEC_W is a
parameter, cut to VEC_W bits wherever one enters the block (`vectorId`; log 19). -/
structure PendingEvent where
  kind : EventKind
  cls : TrapClass
  vector : Nat
  faultVA : Quad
  info : Quad
  isWrite : Bool
  isIFetch : Bool
  isUnaligned : Bool
  deriving DecidableEq, Repr

/-- The NONE event (R61). -/
def PendingEvent.empty : PendingEvent :=
  { kind := .none, cls := .none, vector := 0, faultVA := 0, info := 0, isWrite := false, isIFetch := false, isUnaligned := false }

/-- The flags argument of `raise` (R10). -/
structure EventFlags where
  w : Bool
  i : Bool
  u : Bool
  deriving DecidableEq, Repr

/-- AST eligibility (R410). -/
structure Eligibility where
  eligible : Bool
  targetMode : Mode
  deriving DecidableEq, Repr

/-! ### The fault record -/

/-- The fields of a MemoryFaultInfo that its caller sets (R62, R324). -/
structure FaultBase where
  faultType : MemoryFaultType
  faultVA : Quad
  faultPA : Quad
  accessSize : BitVec 8
  isWrite : Bool
  isExecute : Bool
  faultPC : Quad
  rawInstruction : Word
  subKind : BitVec 8
  translationValid : Bool
  deviceId : BitVec 16
  errorCode : BitVec 32
  deriving DecidableEq, Repr

/-- MemoryFaultInfo (R62): the base fields and what is captured from the CPU. The canonical fields are computed on read
from the base fields (R323; Machine/Classifier.lean; log 28). -/
structure MemoryFaultInfo where
  base : FaultBase
  palMode : Bool
  privMode : BitVec 2
  asn : BitVec 8
  deriving DecidableEq, Repr

/-- The values of `canonicalAccessType` (R320). -/
inductive AccessType
  | read | write | execute
  deriving DecidableEq, Repr

/-- The values of `canonicalAccessSize` (R321). -/
inductive AccessSize
  | b1 | b2 | b4 | b8 | other
  deriving DecidableEq, Repr

/-- The values of `canonicalTBDomain` (R322). -/
inductive TBDomain
  | itb | dtb
  deriving DecidableEq, Repr

/-! ### PalResult -/

/-- PalResult (R63). A value field has a meaning only when its flag is set (R64). -/
structure PalResult where
  hasReturn : Bool
  retValue : Quad
  destReg : BitVec 5
  doesReturn : Bool
  pcModified : Bool
  newPC : Quad
  faultPC : Quad
  faultVA : Quad
  psModified : Bool
  newPS : Quad
  iplModified : Bool
  newIPL : BitVec 5
  asnModified : Bool
  newASN : BitVec 8
  raisesException : Bool
  excVector : Nat
  haltCode : Quad
  flushTarget : Quad
  sideEffects : BitVec 32
  deriving DecidableEq, Repr

/-- One write a privileged grain makes to the PalResult it builds: the paired-field writes of R341 and the setters of
R344-R350. -/
inductive PalWrite
  | returnValue (v : Quad) (d : BitVec 5)
  | doesReturn
  | newPC (t : Quad)
  | faultAt (pc va : Quad)
  | newPS (s : Quad)
  | newIPL (l : BitVec 5)
  | newASN (n : BitVec 8)
  | raiseException (v : Nat)
  | tlbModified
  | iplChanged
  | memoryBarrier
  | drainWriteBuffers
  | requestPipelineFlush (pc : Quad)
  | halt (code : Quad)
  | contextSwitch
  deriving DecidableEq, Repr

/-- What `applyPalResult` passes through to the run loop (R351 step 2, R355, R356). `psModified` and `newPS` go with it,
since the bits of `newPS` the block does not read go to the run loop (R354; log 11). -/
structure Deliver where
  hasReturn : Bool
  retValue : Quad
  destReg : BitVec 5
  pcModified : Bool
  newPC : Quad
  faultPC : Quad
  faultVA : Quad
  psModified : Bool
  newPS : Quad
  raisesException : Bool
  excVector : Nat
  deriving DecidableEq, Repr

/-! ### Per-CPU event state -/

/-- The line of an inter-processor operation that this CPU's agent performs next: lines 2 and 3 of `sendIPI` (R450) and
of `ackIPI` (R451). Line 1 is performed when the operation starts (log 13). -/
inductive IpiLine
  | sendRequest (dst : Nat)
  | sendInterrupt (dst : Nat)
  | ackInterrupt (was : Bool)
  | ackData (was : Bool)
  deriving DecidableEq, Repr

/-- The per-CPU event state `S[c]` (R31), and the model's own `busy` and `ipiSeen` (log 12, log 13). -/
structure CpuState where
  /-- IRQ_PENDING (R32). -/
  irqPending : BitVec 32
  /-- IPL (R33). -/
  ipl : BitVec 5
  /-- CM (R34). -/
  cm : BitVec 2
  /-- SIRR, and SISR through it (R35, R36). -/
  sirr : BitVec 16
  /-- PCTX (R37). -/
  pctx : Quad
  /-- AST_STATE (R38). -/
  astState : BitVec 16
  /-- IER (R39). -/
  ier : BitVec 32
  /-- palMode (R40). -/
  palMode : Bool
  /-- IPI_REQUEST (R41). -/
  ipiRequest : Bool
  /-- IPI_DATA (R42). -/
  ipiData : Quad
  /-- PAL_BASE (R43). -/
  palBase : Quad
  /-- The pending-event slot (R45). -/
  slot : PendingEvent
  /-- halted (R48). -/
  halted : Bool
  /-- haltCode (R48). -/
  haltCode : Quad
  /-- The next line of this agent's unfinished inter-processor operation (log 13). -/
  busy : Option IpiLine
  /-- The CPUs an acquire of which observed 1 in this IPI_REQUEST, none named twice (R96, R99; log 12). -/
  ipiSeen : List Nat
  deriving DecidableEq, Repr

/-- The registers of `S[c]` the accessors name (R31, R36, R76). The slot is read by `readSlot`. -/
inductive Field
  | irqPending | ipl | cm | sirr | sisr | pctx | astState | ier | palMode | ipiRequest | ipiData | palBase | halted | haltCode
  deriving DecidableEq, Repr

/-! ### Requests and outputs -/

/-- Who asks for an operation (R4). -/
inductive Agent
  | cpu (c : Nat)
  | interruptSource
  | configuration
  | platform
  deriving DecidableEq, Repr

/-- The operations of R13, with R76's accessors, R500-R503's resets and boot steps, and the continuation of a three-line
inter-processor operation (log 13). -/
inductive Op
  | decode (c : Nat) (w : Word) (pc : Quad)
  | resolve (w : Word)
  | route (op : Opcode)
  | register (op : Opcode) (fc : FnCode) (plat : Platform) (g : Grain)
  | lookup (op : Opcode) (fc : FnCode) (plat : Platform)
  | grainCount
  | computeEligibility (en sum : BitVec 4) (mode : Mode) (ipl : BitVec 5)
  | mapITranslationFault (r : TranslationResult)
  | mapDTranslationFault (r : TranslationResult)
  | mapTranslationFault (r : TranslationResult) (isInstruction : Bool)
  | decodeMMStat (bits : Nat) (isWrite : Bool)
  | classifyArith (bits : Quad)
  | reportTranslationFault (c : Nat) (r : TranslationResult) (isInstruction : Bool) (va : Quad) (isWrite : Bool)
  | reportArith (c : Nat) (bits : Quad)
  | isRecoverableFault (cls : TrapClass)
  | captureFaultInfo (c : Nat) (base : FaultBase)
  | raiseMachineCheck (c : Nat) (info : Quad)
  | setPendingEvent (c : Nat) (e : PendingEvent)
  | hasPendingEvent (c : Nat)
  | eventPendingState (c : Nat)
  | consumeEvent (c : Nat)
  | hasPendingTranslationFault (c : Nat) (va : Quad)
  | buildPal (writes : List PalWrite)
  | applyPalResult (c : Nat) (r : PalResult) (order : List PipelineEffect)
  | sendIPI (src dst : Nat) (data : Quad)
  | ackIPI (c : Nat)
  | continueIPI (c : Nat)
  | readF (c : Nat) (f : Field)
  | readSlot (c : Nat)
  | writeF (c : Nat) (f : Field) (v : Quad)
  | irqSet (c : Nat) (n : BitVec 5)
  | irqClear (c : Nat) (n : BitVec 5)
  | astUpdate (c : Nat) (setMask clrMask : BitVec 16)
  | resetCpu (c : Nat)
  | globalReset
  | releaseReset
  | initBank
  | shutdownBank
  | deregisterCpu (c : Nat)
  | setActivePlatform (p : Platform)
  deriving DecidableEq, Repr

/-- One operation asked for by one agent. -/
structure Request where
  agent : Agent
  op : Op
  deriving DecidableEq, Repr

/-- What an operation hands back (R13): its return value, or what R351 calls `emit`. -/
inductive Output
  | decoded (d : DecodeOut)
  | grain (g : Option Grain)
  | unit (u : ExecUnit)
  | flag (b : Bool)
  | count (n : Nat)
  | eligibility (e : Eligibility)
  | trapClass (c : TrapClass)
  | memoryFault (t : MemoryFaultType)
  | faultInfo (m : MemoryFaultInfo)
  | event (e : PendingEvent)
  | palResult (r : PalResult)
  | deliver (d : Deliver)
  | action (e : PipelineEffect) (r : PalResult)
  | ipiAck (was : Bool) (data : Quad)
  | value (v : Quad)
  deriving DecidableEq, Repr

/-- The operands `c` and `pc` of the decode stage being run (R151, R74). -/
structure DecodeInput where
  cpu : Nat
  pc : Quad
  deriving DecidableEq, Repr

end Sys2Proof.Machine
end

