-- ==== Sys2Proof/Machine/Defaults.lean ====
section
/-! DEFINITION. The default value of every parameter of R5 (the tables of R118 and R271 among them), the values the model
chooses for the OPEN ones (log 4), and the reset value of a CPU's event state (R500). -/

namespace Sys2Proof.Machine

/-- The base platform variant (R51, D40). -/
def Platform.base : Platform := ⟨0⟩

/-- The default FORMAT_OF (R118). -/
def formatOfDefault : List FormatClass :=
  [.pal] ++ List.replicate 7 .unknown ++           -- 0x00, 0x01-0x07
  List.replicate 8 .memory ++                      -- 0x08-0x0F
  List.replicate 4 .operate ++                     -- 0x10-0x13
  List.replicate 4 .float ++                       -- 0x14-0x17
  [.memoryBarrier, .pal, .jump, .pal] ++           -- 0x18-0x1B
  [.operate, .pal, .pal, .pal] ++                  -- 0x1C-0x1F
  List.replicate 16 .memory ++                     -- 0x20-0x2F
  List.replicate 16 .branch                        -- 0x30-0x3F

/-- The default UNIT_OF (R271). -/
def unitOfDefault : List ExecUnit :=
  [.controlPal] ++ List.replicate 7 .unknown ++                    -- 0x00, 0x01-0x07
  List.replicate 8 .memory ++                                      -- 0x08-0x0F
  List.replicate 4 .integer ++                                     -- 0x10-0x13
  List.replicate 4 .float ++                                       -- 0x14-0x17
  [.memory, .hwInternal, .controlPal, .hwInternal] ++              -- 0x18-0x1B
  [.integer, .hwInternal, .hwInternal, .hwInternal] ++             -- 0x1C-0x1F
  List.replicate 16 .memory ++                                     -- 0x20-0x2F
  List.replicate 16 .controlPal                                    -- 0x30-0x3F

/-- The default HW_INTERNAL (R117). -/
def hwInternalDefault : List Opcode := [0x19#6, 0x1B#6, 0x1D#6, 0x1E#6, 0x1F#6]

/-- The default FP_OPCODES (D11): 0x14-0x17, 0x20-0x27, 0x31-0x33, 0x35-0x37. -/
def fpOpcodesDefault : List Opcode :=
  [0x14#6, 0x15#6, 0x16#6, 0x17#6] ++
  [0x20#6, 0x21#6, 0x22#6, 0x23#6, 0x24#6, 0x25#6, 0x26#6, 0x27#6] ++
  [0x31#6, 0x32#6, 0x33#6, 0x35#6, 0x36#6, 0x37#6]

/-- The default MMSTAT_TABLE (R310): by code, the type for a read and for a write. -/
def mmStatDefault : List (MemoryFaultType × MemoryFaultType) :=
  [(.dtbMissRead, .dtbMissWrite), (.dtbMissRead, .dtbMissWrite), (.dtbMissRead, .dtbMissWrite), (.acvRead, .acvWrite),
   (.faultOnRead, .faultOnRead), (.faultOnWrite, .faultOnWrite), (.faultOnExecute, .faultOnExecute), (.none, .none)]

/-- The parameters with the spec's defaults (R5). The OPEN ones (`vecW`, `vectors`, `numCpus`, `defaultCpuCount`,
`ierReset`, `palBaseReset`, `resetPc`) are the model's choice, `ierReset` being the value spec/95 assumes; no statement
rests on them (log 4). -/
def Params.default : Params :=
  { formatOf := formatOfDefault
    unitOf := unitOfDefault
    hwInternal := hwInternalDefault
    fpOpcodes := fpOpcodesDefault
    hwintRequiresPal := true
    fcMisc := ⟨0, 16⟩
    fcJump := ⟨14, 2⟩
    mmStat := mmStatDefault
    arithW := 64
    vecW := 16
    vectors := [1, 2, 3, 4, 5, 6, 7, 8, 9, 10, 11, 12, 13, 14]
    ipiLevel := 22
    numCpus := 2
    defaultCpuCount := 4
    resetIpl := 31
    ierReset := 0xFFFFFFFF#32
    palBaseReset := 0
    palBaseMask := 0x00000FFFFFFF8000#64
    fetchByteOrder := .little
    resetPc := 0 }

/-- What `reset(c)` leaves in `S[c]` (R500). -/
def CpuState.reset (p : Params) : CpuState :=
  { irqPending := 0
    ipl := p.resetIpl
    cm := 0
    sirr := 0
    pctx := 0
    astState := 0
    ier := p.ierReset
    palMode := true
    ipiRequest := false
    ipiData := 0
    palBase := p.palBaseReset &&& p.palBaseMask
    slot := PendingEvent.empty
    halted := false
    haltCode := 0
    busy := none
    ipiSeen := [] }

end Sys2Proof.Machine
end

