-- ==== Sys2Proof/Machine/State.lean ====
section
/-! DEFINITION. The state of the block, the reasons a step can stop, and the state right after reset release. -/

namespace Sys2Proof.Machine

/-- Where the spec says an operation has NO STEP: the machine is stuck there (spec/93 treatment "stuck"). -/
inductive Fault
  /-- Raised by the decode stage, `consumeEvent` and `applyPalResult` on a CPU whose `halted` is 1: they have no step until
  reset (R48, R353, I17). Safe: the model stops where the spec says nothing more runs. -/
  | cpuHalted
  /-- Raised by the decode stage while the arbiter has an event to deliver: the run loop must consume it first, and a CPU
  whose event is never consumed is blocked (R431, R519, I16). Safe. -/
  | eventNotConsumed
  deriving DecidableEq, Repr

/-- Where the spec says an operation has NO MEANING (spec/93 treatment "refuse"). -/
inductive Refusal
  /-- An instruction without a meaning in `exec`, by its mnemonic. Safe. -/
  | notModelled (mnemonic : String)
  /-- Raised by every operation that names a CPU id outside the bank, as agent or as operand (R30, I12), a de-registered
  CPU's among them (R504). Safe. -/
  | cpuOutOfRange
  /-- Raised by `lookup`, `resolve` and the decode stage while `sealed` is 0 (R146, I1). Safe. -/
  | registryUnsealed
  /-- Raised by `register` and the other configuration steps while `sealed` is 1 (R146, R4d, R51, I1). Safe. -/
  | registrySealed
  /-- Raised by an operation whose agent may not perform it: a write of an owner-only field by another agent (R47), and
  every other pairing the "caller" and "who" columns of R13 and R76 do not list. Safe. -/
  | notPermitted
  /-- Raised by `writeF` on a field that no accessor writes: an atomic field (R76), `halted` or `haltCode` (R48). Safe. -/
  | fieldNotWritable
  /-- Raised by `setPendingEvent` of the NONE event (R440 `require`). Safe. -/
  | noneEventPosted
  /-- Raised by an operation of a CPU agent whose IPI operation is unfinished: an agent performs its operations in program
  order (R95, R450, R451). Safe. -/
  | operationInProgress
  /-- Raised by `continueIPI` where no IPI operation is unfinished (R450, R451). Safe. -/
  | noOperationInProgress
  deriving DecidableEq, Repr

/-- The state of the block (R30-R53) and of its request and output ports (log 2, log 5). -/
structure State where
  /-- The parameters of R5. No operation writes them. -/
  params : Params
  /-- `Reg` (R50). -/
  registry : Registry
  /-- `ACTIVE_PLATFORM` (R51). -/
  activePlatform : Platform
  /-- `sealed` (R52). -/
  isSealed : Bool
  /-- The bank of per-CPU states, or none while it is uninitialized (R53, R443). A CPU that was de-registered has no `S[c]`
  any more (R30, R504). -/
  bank : Option (List (Option CpuState))
  /-- The operands of the decode stage being run (R151; log 3). -/
  current : DecodeInput
  /-- The operations still to be served, oldest first (R99; log 2). -/
  requests : List Request
  /-- What the last served operation emitted, in order (log 5). -/
  outputs : List Output
  /-- How many free values have been drawn (log 12). -/
  draws : Nat
  deriving DecidableEq, Repr

/-- The block at reset release (R501, R503 step 3): sealed, with NUM_CPUS CPUs as `reset(c)` leaves them (R500). The
registry's contents and ACTIVE_PLATFORM are the configuration's, which the spec leaves open: empty and BASE (log 1, log 4). -/
def State.reset : State :=
  { params := Params.default
    registry := []
    activePlatform := Platform.base
    isSealed := true
    bank := some (List.replicate Params.default.numCpus (some (CpuState.reset Params.default)))
    current := ⟨0, Params.default.resetPc⟩
    requests := []
    outputs := []
    draws := 0 }

end Sys2Proof.Machine
end

