-- ==== Sys2Proof/Machine/Operands.lean ====
section
/-! DEFINITION. What the decoder reads from a word: its format class, its execution unit (the router), its
hardware-internal and FP marks, and its function code (R111-R117, R270). A code outside a table's length has the table's
"unknown" member, so every function here is total whatever the tables are (R12). -/

namespace Sys2Proof.Machine

/-- FORMAT_OF (R112). -/
def formatOf (p : Params) (op : Opcode) : FormatClass := p.formatOf.getD op.toNat .unknown

/-- `route` (R270). -/
def route (p : Params) (op : Opcode) : ExecUnit := p.unitOf.getD op.toNat .unknown

/-- `isHardwareInternal` (R117). -/
def isHardwareInternal (p : Params) (op : Opcode) : Bool := p.hwInternal.contains op

/-- Membership in FP_OPCODES (R151 step 4, D11). -/
def isFpOpcode (p : Params) (op : Opcode) : Bool := p.fpOpcodes.contains op

/-- The field of a word a parameter names, zero-extended to the key's width (R115). -/
def fieldOf (f : BitField) (w : Word) : FnCode := (w.extractLsb' f.lo f.width).setWidth 26

/-- `extractFc` (R116). -/
def extractFc (p : Params) (w : Word) : FnCode :=
  match formatOf p (opcodeOf w) with
  | .operate => (w.extractLsb' 5 7).setWidth 26
  | .float => (w.extractLsb' 5 11).setWidth 26
  | .pal => w.extractLsb' 0 26
  | .memoryBarrier => fieldOf p.fcMisc w
  | .jump => fieldOf p.fcJump w
  | .memory => 0
  | .branch => 0
  | .vector => 0
  | .unknown => 0

/-- The code of a FormatClass (R68). -/
def FormatClass.code : FormatClass → BitVec 4
  | .operate => 0 | .memory => 1 | .branch => 2 | .pal => 3 | .float => 4 | .memoryBarrier => 5 | .vector => 6
  | .jump => 7 | .unknown => 8

/-- The 3-bit unit select the router drives (R69, R274). -/
def ExecUnit.code : ExecUnit → BitVec 3
  | .integer => 0 | .float => 1 | .memory => 2 | .controlPal => 3 | .hwInternal => 4 | .vector => 5 | .unknown => 6

end Sys2Proof.Machine
end

