-- ==== Sys2Proof/Machine/Flags.lean ====
section
/-! DEFINITION. Bit fields and flags. The block has no condition codes; its flags are the fields of PCTX (R37), of
AST_STATE (R38), the derived has-pending-event flag (R44) and the PipelineEffect mask (R342). -/

namespace Sys2Proof.Machine

/-! ### PCTX (R37) -/

/-- PCTX.PPCE. -/
def CpuState.ppce (x : CpuState) : Bool := x.pctx.getLsbD 1

/-- PCTX.FPE. -/
def CpuState.fpe (x : CpuState) : Bool := x.pctx.getLsbD 2

/-- PCTX.ASTEN, bit m for mode m. -/
def CpuState.asten (x : CpuState) : BitVec 4 := x.pctx.extractLsb' 5 4

/-- PCTX.ASTSR, bit m for mode m. -/
def CpuState.astsr (x : CpuState) : BitVec 4 := x.pctx.extractLsb' 9 4

/-- PCTX.ASN. -/
def CpuState.asn (x : CpuState) : BitVec 8 := x.pctx.extractLsb' 39 8

/-- The valid bits of PCTX (R46): 46..39, 12..5, 2, 1. -/
def pctxMask : Quad := 0x00007F8000001FE6#64

/-- PCTX with its ASN field replaced (R354). -/
def pctxWithAsn (v : Quad) (n : BitVec 8) : Quad := (v &&& ~~~(0x00007F8000000000#64)) ||| (n.setWidth 64 <<< 39)

/-- PCTX with ASTSR bit m set (R440). -/
def pctxWithAst (v : Quad) (m : BitVec 2) : Quad := v ||| (1#64 <<< (9 + m.toNat))

/-! ### AST_STATE (R38) -/

/-- AST_REQ. -/
def CpuState.astReq (x : CpuState) : BitVec 4 := x.astState.extractLsb' 0 4

/-- AST_LVL. -/
def CpuState.astLvl (x : CpuState) : BitVec 4 := x.astState.extractLsb' 4 4

/-- AST_PEND. -/
def CpuState.astPend (x : CpuState) : BitVec 8 := x.astState.extractLsb' 8 8

/-! ### Modes (R70) -/

/-- The code of a mode. -/
def Mode.code : Mode → BitVec 2
  | .kernel => 0 | .executive => 1 | .supervisor => 2 | .user => 3

/-- The mode of a code. -/
def Mode.ofBits (b : BitVec 2) : Mode :=
  if b = 0 then .kernel else if b = 1 then .executive else if b = 2 then .supervisor else .user

/-- The current mode, `CM` (R34). -/
def CpuState.mode (x : CpuState) : Mode := Mode.ofBits x.cm

/-! ### The derived flag (R44) -/

/-- `hasPendingEvent`. -/
def hasPendingEvent (x : CpuState) : Bool :=
  decide (x.slot.kind ≠ .none) || decide (x.irqPending ≠ 0) || decide (x.sirr ≠ 0) || x.ipiRequest ||
    decide (x.astsr &&& x.asten ≠ 0)

/-! ### The PipelineEffect mask (R342) -/

/-- The bit of an effect. -/
def PipelineEffect.bit : PipelineEffect → Nat
  | .tlbModified => 0 | .iplChanged => 1 | .memoryBarrier => 2 | .drainWriteBuffers => 3 | .pipelineFlush => 4
  | .halt => 5 | .notifyHalt => 6 | .contextSwitch => 7

/-- The mask of an effect. -/
def PipelineEffect.mask (e : PipelineEffect) : BitVec 32 := 1#32 <<< e.bit

/-- `hasEffect` (R343). -/
def hasEffect (m : BitVec 32) (e : PipelineEffect) : Bool := m.getLsbD e.bit

/-- The bits of `sideEffects` that name an effect; `applyPalResult` ignores the others (R358). -/
def effectBits (m : BitVec 32) : BitVec 32 := m &&& 0x000000FF#32

/-! ### Atomic read-modify-writes (R98) -/

/-- The value `fetchOr` leaves. -/
def fetchOr {n : Nat} (old m : BitVec n) : BitVec n := old ||| m

/-- The value `fetchAnd` leaves. -/
def fetchAnd {n : Nat} (old m : BitVec n) : BitVec n := old &&& m

end Sys2Proof.Machine
end

