-- ==== Sys2Proof/Machine/Arbiter.lean ====
section
/-! DEFINITION. The arbiter: AST eligibility (R410-R413), interrupt arbitration (R420, R421), and the priority of events
(R430). Everything here is pure over one CPU's event state. -/

namespace Sys2Proof.Machine

/-! ### Codes and vectors -/

/-- The code of an event kind (R60). -/
def EventKind.code : EventKind → BitVec 2
  | .none => 0 | .exception => 1 | .interrupt => 2 | .ast => 3

/-- The code of a trap class (R67). -/
def TrapClass.code : TrapClass → BitVec 4
  | .none => 0 | .arithmetic => 1 | .itbMiss => 2 | .dtbMiss => 3 | .itbFault => 4 | .dtbFault => 5 | .itbAcv => 6
  | .dtbAcv => 7 | .fpDisabled => 8 | .illegalInstruction => 9 | .machineCheck => 10 | .alignment => 11 | .doubleFault => 12

/-- The vector key of a trap class; NONE has none (R72). -/
def TrapClass.key : TrapClass → Option VectorKey
  | .none => Option.none
  | .arithmetic => some .arithmetic | .itbMiss => some .itbMiss | .dtbMiss => some .dtbMiss
  | .itbFault => some .itbFault | .dtbFault => some .dtbFault | .itbAcv => some .itbAcv | .dtbAcv => some .dtbAcv
  | .fpDisabled => some .fpDisabled | .illegalInstruction => some .illegalInstruction
  | .machineCheck => some .machineCheck | .alignment => some .alignment | .doubleFault => some .doubleFault

/-- The position of a key in the vector table: R72's order. -/
def VectorKey.position : VectorKey → Nat
  | .arithmetic => 0 | .itbMiss => 1 | .dtbMiss => 2 | .itbFault => 3 | .dtbFault => 4 | .itbAcv => 5 | .dtbAcv => 6
  | .fpDisabled => 7 | .illegalInstruction => 8 | .machineCheck => 9 | .alignment => 10 | .doubleFault => 11
  | .interrupt => 12 | .ast => 13

/-- A vector id has VEC_W bits (R60, R63, R435; log 19). -/
def vectorId (p : Params) (v : Nat) : Nat := v % 2 ^ p.vecW

/-- `vectorOf` (R435): a VEC_W-bit id from the parameter table. -/
def vectorOf (p : Params) (k : VectorKey) : Nat := vectorId p (p.vectors.getD (VectorKey.position k) 0)

/-- The vector of a trap class; 0, the NONE event's, for NONE (R61). -/
def classVector (p : Params) (c : TrapClass) : Nat :=
  match TrapClass.key c with
  | some k => vectorOf p k
  | none => 0

/-! ### The three events (R10, R413, R421) -/

/-- The EXCEPTION event `raise` posts (R10). -/
def exceptionEvent (p : Params) (c : TrapClass) (va info : Quad) (f : EventFlags) : PendingEvent :=
  { kind := .exception, cls := c, vector := classVector p c, faultVA := va, info := info, isWrite := f.w, isIFetch := f.i,
    isUnaligned := f.u }

/-- The INTERRUPT event for level n (R421). -/
def interruptEvent (p : Params) (n : Nat) : PendingEvent :=
  { PendingEvent.empty with kind := .interrupt, vector := vectorOf p .interrupt, info := BitVec.ofNat 64 n }

/-- The AST event for target mode t (R413). -/
def astEvent (p : Params) (t : Mode) : PendingEvent :=
  { PendingEvent.empty with kind := .ast, vector := vectorOf p .ast, info := (Mode.code t).setWidth 64 }

/-! ### AST eligibility (R410) -/

/-- The answer when no AST is eligible; `targetMode` then carries no meaning (R410). -/
def notEligible : Eligibility := ⟨false, .kernel⟩

/-- Whether mode t is a candidate at the current mode (R410 step 3). -/
def astCandidate (candidate : BitVec 4) (mode t : Mode) : Bool :=
  candidate.getLsbD (Mode.code t).toNat && decide (Mode.code t ≤ Mode.code mode)

/-- `computeEligibility` (R410). -/
def computeEligibility (en sum : BitVec 4) (mode : Mode) (ipl : BitVec 5) : Eligibility :=
  if 2#5 < ipl then notEligible
  else
    match [Mode.kernel, .executive, .supervisor, .user].find? (astCandidate (sum &&& en) mode) with
    | some t => ⟨true, t⟩
    | none => notEligible

/-- `astElig` (R412): recomputed from the state at every arbitration; AST_STATE is no input. -/
def astElig (x : CpuState) : Eligibility := computeEligibility x.asten x.astsr x.mode x.ipl

/-! ### Interrupts (R420) -/

/-- `pendingLevels` (R420). -/
def pendingLevels (p : Params) (x : CpuState) : BitVec 32 :=
  (x.irqPending ||| x.sirr.setWidth 32 ||| (if x.ipiRequest then 1#32 <<< p.ipiLevel.toNat else 0)) &&& x.ier

/-- Whether level n is in `deliverable` (R420), for n in 1..31. -/
def deliverable (p : Params) (x : CpuState) (n : Nat) : Bool :=
  (pendingLevels p x).getLsbD n && decide (x.ipl.toNat < n)

/-- The highest level from n down to 1 that meets f. -/
def highestFrom (f : Nat → Bool) : Nat → Option Nat
  | 0 => none
  | n + 1 => if f (n + 1) then some (n + 1) else highestFrom f n

/-- `intrLevel` (R420). -/
def intrLevel (p : Params) (x : CpuState) : Option Nat := highestFrom (deliverable p x) 31

/-! ### Priority (R430) -/

/-- `arbitrate`: the slot's exception, then, outside PAL mode, the highest deliverable interrupt, then an eligible AST.
R430's steps 1 and 2 both return the slot. IRQ_PENDING and IPI_REQUEST are read at one instant (log 31). -/
def arbitrate (p : Params) (x : CpuState) : PendingEvent :=
  if x.slot.kind = .exception then x.slot
  else if x.palMode then PendingEvent.empty
  else
    match intrLevel p x with
    | some n => interruptEvent p n
    | none => if (astElig x).eligible then astEvent p (astElig x).targetMode else PendingEvent.empty

end Sys2Proof.Machine
end

