-- ==== Sys2Proof/Machine/Ops.lean ====
section
/-! DEFINITION. The named operations over the state: reaching a CPU's event state, TAKING AN EXCEPTION (`postEvent`,
`raiseTrap`: R10, R440), entering PAL for an event (`consume`: R433, R434) and returning from it (`returnFromPal`: R436). -/

namespace Sys2Proof.Machine

abbrev Result := Host.Outcome State Fault Refusal

/-! ### The bank (R30, R53) -/

/-- The first access to an uninitialized bank builds it with DEFAULT_CPU_COUNT CPUs (R53). -/
def State.touchBank (s : State) : State :=
  match s.bank with
  | some _ => s
  | none => { s with bank := some (List.replicate s.params.defaultCpuCount (some (CpuState.reset s.params))) }

/-- `S[c]`, where c is inside the bank and not de-registered. -/
def State.cpu? (s : State) (c : Nat) : Option CpuState :=
  match s.bank with
  | some cpus => cpus[c]?.join
  | none => none

/-- `S[c] <- x`, where there is an `S[c]`. -/
def State.setCpu (s : State) (c : Nat) (x : CpuState) : State :=
  { s with bank := s.bank.map (fun cpus => cpus.modify c (Option.map fun _ => x)) }

/-- Runs an operation that names CPU c: the bank is touched first, and an id outside it is refused (R30, R53). -/
def withCpu (s : State) (c : Nat) (f : State → CpuState → Result) : Result :=
  match s.touchBank.cpu? c with
  | some x => f s.touchBank x
  | none => .refused .cpuOutOfRange

/-- The CPUs an acquire of which observed an IPI_REQUEST of 1, after `reader` acquires it and observes `saw`. All of a CPU's
later reads are ordered after an acquire (R96), so a CPU once in the list stays in it (R99; log 12). -/
def observeIpi (seen : List Nat) (reader : Nat) (saw : Bool) : List Nat :=
  if saw ∧ reader ∉ seen then reader :: seen else seen

/-- An acquire load of IPI_REQUEST by CPU `reader` (R96): what it observes is recorded. -/
def CpuState.acquireIpi (x : CpuState) (reader : Nat) : CpuState :=
  { x with ipiSeen := observeIpi x.ipiSeen reader x.ipiRequest }

/-- The loads of CPU c's arbitration: R430 reaches IPI_REQUEST at its step 4, past an exception in the slot and PAL mode, and
that load is an acquire (R96, R420; log 12). -/
def CpuState.arbiterLoads (x : CpuState) (c : Nat) : CpuState :=
  { x with ipiSeen := observeIpi x.ipiSeen c (decide (x.slot.kind ≠ .exception) && !x.palMode && x.ipiRequest) }

/-- Emits the given outputs. -/
def State.emit (s : State) (o : List Output) : State := { s with outputs := o }

/-! ### Taking an exception -/

/-- An event with its vector cut to VEC_W bits (R60). -/
def PendingEvent.cut (p : Params) (e : PendingEvent) : PendingEvent := { e with vector := vectorId p e.vector }

/-- What `setPendingEvent` does with an event to `S[c]` (R440): a posted interrupt or AST sets its source bit; an
exception goes into the slot, whose vector field has VEC_W bits (R60), or escalates the one held there to DOUBLE_FAULT. -/
def postEvent (p : Params) (x : CpuState) (e : PendingEvent) : CpuState :=
  match e.kind with
  | .none => x
  | .interrupt => { x with irqPending := fetchOr x.irqPending (1#32 <<< (e.info.extractLsb' 0 5).toNat) }
  | .ast => { x with pctx := pctxWithAst x.pctx (e.info.extractLsb' 0 2) }
  | .exception =>
    if x.slot.kind = .none then { x with slot := e.cut p }
    else if x.slot.cls = .machineCheck then x
    else if e.cls = .machineCheck then { x with slot := e.cut p }
    else if x.slot.cls = .doubleFault then x
    else { x with slot := { x.slot with cls := .doubleFault, vector := vectorOf p .doubleFault } }

/-- `raise` on one CPU's event state (R10). -/
def raiseTrap (p : Params) (x : CpuState) (c : TrapClass) (va info : Quad) (f : EventFlags) : CpuState :=
  postEvent p x (exceptionEvent p c va info f)

/-- `raise` on CPU c of a state, x being `S[c]` (R10). It has no output (R10, R153). -/
def State.raise (s : State) (c : Nat) (x : CpuState) (cls : TrapClass) (va info : Quad) (f : EventFlags) : State :=
  s.setCpu c (raiseTrap s.params x cls va info f)

/-- What consuming the event e does to `S[c]` (R433): a delivered exception leaves the slot, any event enters PAL mode, and
nothing else changes (R434). -/
def consume (x : CpuState) (e : PendingEvent) : CpuState :=
  match e.kind with
  | .none => x
  | .exception => { x with slot := PendingEvent.empty, palMode := true }
  | .interrupt => { x with palMode := true }
  | .ast => { x with palMode := true }

/-- The return from PAL (R436, R351 step 4): a PalResult with `doesReturn` leaves PAL mode. -/
def returnFromPal (x : CpuState) (doesReturn : Bool) : CpuState :=
  if doesReturn then { x with palMode := false } else x

/-- `consumeEvent` (R433). A read of IPI_REQUEST by its arbitration is an acquire (R96; log 12); both cross-CPU fields are
read at one instant (log 31). -/
def consumeEvent (c : Nat) (s : State) : Result :=
  withCpu s c fun s x =>
    if x.halted then .fault .cpuHalted
    else
      let e := arbitrate s.params x
      .next ((s.setCpu c (consume (x.arbiterLoads c) e)).emit [.event e])

/-- A query of CPU c by its own agent that reads the cross-CPU fields: `eventPendingState` (R432) and the has-pending-event
flag (R44), which each of them evaluates, all its terms (log 12). Its read of IPI_REQUEST is an acquire (R96), and nothing of
the block's state is written; both cross-CPU fields are read at one instant (log 31). -/
def queryPending (c : Nat) (answer : Params → CpuState → Output) (s : State) : Result :=
  withCpu s c fun s x => .next ((s.setCpu c (x.acquireIpi c)).emit [answer s.params x])

/-- `setPendingEvent` (R440). -/
def setPendingEvent (c : Nat) (e : PendingEvent) (s : State) : Result :=
  if e.kind = .none then .refused .noneEventPosted
  else withCpu s c fun s x => .next (s.setCpu c (postEvent s.params x e))

end Sys2Proof.Machine
end

