-- ==== Sys2Proof/Machine/Accessors.lean ====
section
/-! DEFINITION. The register-field accessors (R46, R76): every setter masks what it stores, every getter what it returns. -/

namespace Sys2Proof.Machine

/-- The valid bits of a field (R46). -/
def fieldMask (p : Params) : Field → Quad
  | .irqPending => 0xFFFFFFFF#64
  | .ipl => 0x1F#64
  | .cm => 0x3#64
  | .sirr => 0xFFFE#64
  | .sisr => 0xFFFE#64
  | .pctx => pctxMask
  | .astState => 0xFFFF#64
  | .ier => 0xFFFFFFFF#64
  | .palMode => 0x1#64
  | .ipiRequest => 0x1#64
  | .ipiData => 0xFFFFFFFFFFFFFFFF#64
  | .palBase => p.palBaseMask
  | .halted => 0x1#64
  | .haltCode => 0xFFFFFFFFFFFFFFFF#64

/-- One bit as a 64-bit value. -/
def bitValue (b : Bool) : Quad := (BitVec.ofBool b).setWidth 64

/-- The stored bits of a field; SISR is the view of SIRR (R36). -/
def fieldBits (x : CpuState) : Field → Quad
  | .irqPending => x.irqPending.setWidth 64
  | .ipl => x.ipl.setWidth 64
  | .cm => x.cm.setWidth 64
  | .sirr => x.sirr.setWidth 64
  | .sisr => x.sirr.setWidth 64
  | .pctx => x.pctx
  | .astState => x.astState.setWidth 64
  | .ier => x.ier.setWidth 64
  | .palMode => bitValue x.palMode
  | .ipiRequest => bitValue x.ipiRequest
  | .ipiData => x.ipiData
  | .palBase => x.palBase
  | .halted => bitValue x.halted
  | .haltCode => x.haltCode

/-- What a read of a field returns (R46, R76). -/
def readField (p : Params) (x : CpuState) (f : Field) : Quad := fieldBits x f &&& fieldMask p f

/-- What a write of the masked value v does to `S[c]` (R46, R76), or none where no accessor writes the field: an atomic
field, `halted`, `haltCode`. A write of SISR is ignored (R36). -/
def writeField (p : Params) (x : CpuState) (f : Field) (v : Quad) : Option CpuState :=
  let m := v &&& fieldMask p f
  match f with
  | .ipl => some { x with ipl := m.setWidth 5 }
  | .cm => some { x with cm := m.setWidth 2 }
  | .sirr => some { x with sirr := m.setWidth 16 }
  | .sisr => some x
  | .pctx => some { x with pctx := m }
  | .ier => some { x with ier := m.setWidth 32 }
  | .palMode => some { x with palMode := m.getLsbD 0 }
  | .palBase => some { x with palBase := m }
  | .irqPending => none
  | .astState => none
  | .ipiRequest => none
  | .ipiData => none
  | .halted => none
  | .haltCode => none

/-- The atomic fields: those another CPU may read (R47). -/
def isAtomicField : Field → Bool
  | .irqPending | .astState | .ipiRequest | .ipiData => true
  | .ipl | .cm | .sirr | .sisr | .pctx | .ier | .palMode | .palBase | .halted | .haltCode => false

/-- `readF` by CPU `reader` (R76). A read of IPI_REQUEST is an acquire and settles what the reader has observed; a read of
IPI_DATA by a CPU no acquire of which observed 1 races, and returns a free value (R99; log 12). -/
def readF (reader c : Nat) (f : Field) (s : State) : Result :=
  withCpu s c fun s x =>
    match f with
    | .ipiRequest =>
      .next ((s.setCpu c (x.acquireIpi reader)).emit [.value (readField s.params x .ipiRequest)])
    | .ipiData =>
      if reader ∈ x.ipiSeen then .next (s.emit [.value (readField s.params x .ipiData)])
      else .next ({ s with draws := s.draws + 1 }.emit [.value (Config.freeWord s.draws)])
    | .irqPending | .ipl | .cm | .sirr | .sisr | .pctx | .astState | .ier | .palMode | .palBase | .halted | .haltCode =>
      .next (s.emit [.value (readField s.params x f)])

/-- Reads the slot (R31, R76). -/
def readSlot (c : Nat) (s : State) : Result := withCpu s c fun s x => .next (s.emit [.event x.slot])

/-- `writeF` (R76). -/
def writeF (c : Nat) (f : Field) (v : Quad) (s : State) : Result :=
  withCpu s c fun s x =>
    match writeField s.params x f v with
    | some y => .next (s.setCpu c y)
    | none => .refused .fieldNotWritable

/-- `irqSet` (R76): fetch-or of one bit of IRQ_PENDING. -/
def irqSet (c : Nat) (n : BitVec 5) (s : State) : Result :=
  withCpu s c fun s x => .next (s.setCpu c { x with irqPending := fetchOr x.irqPending (1#32 <<< n.toNat) })

/-- `irqClear` (R76): fetch-and of one bit of IRQ_PENDING. -/
def irqClear (c : Nat) (n : BitVec 5) (s : State) : Result :=
  withCpu s c fun s x => .next (s.setCpu c { x with irqPending := fetchAnd x.irqPending (~~~(1#32 <<< n.toNat)) })

/-- `astUpdate` (R76): one atomic read-modify-write of AST_STATE. -/
def astUpdate (c : Nat) (setMask clrMask : BitVec 16) (s : State) : Result :=
  withCpu s c fun s x => .next (s.setCpu c { x with astState := (x.astState ||| setMask) &&& ~~~clrMask })

end Sys2Proof.Machine
end

