-- ==== Sys2Proof/Machine/Registry.lean ====
section
/-! DEFINITION. The Grain Registry (R140-R146) and the resolver (R147-R149). -/

namespace Sys2Proof.Machine

/-- `foldKey` (R141): every function code of a hardware-internal opcode is one key. -/
def foldKey (p : Params) (op : Opcode) (fc : FnCode) (plat : Platform) : GrainKey :=
  ⟨op, if isHardwareInternal p op then 0 else fc, plat⟩

/-- The grain at an exact key. -/
def grainAt (reg : Registry) (k : GrainKey) : Option Grain := List.lookup k reg

/-- `register` (R142, R143): whether it is accepted, and the registry after it. A duplicate key keeps the first grain. -/
def registerGrain (p : Params) (reg : Registry) (op : Opcode) (fc : FnCode) (plat : Platform) (g : Grain) : Bool × Registry :=
  let k := foldKey p op fc plat
  if (grainAt reg k).isSome then (false, reg) else (true, reg ++ [(k, g)])

/-- `lookup` (R144): the exact key, then once the same key under BASE. -/
def lookupGrain (p : Params) (reg : Registry) (op : Opcode) (fc : FnCode) (plat : Platform) : Option Grain :=
  let k := foldKey p op fc plat
  match grainAt reg k with
  | some g => some g
  | none => if plat = Platform.base then none else grainAt reg { k with platform := Platform.base }

/-- `grainCount` (R145). -/
def grainCount (reg : Registry) : Nat := reg.length

/-- The platform the resolver queries (R148). -/
def queryPlatform (p : Params) (active : Platform) (op : Opcode) : Platform :=
  if isHardwareInternal p op then Platform.base else active

/-- `resolve` (R147). -/
def resolveGrain (p : Params) (reg : Registry) (active : Platform) (w : Word) : Option Grain :=
  lookupGrain p reg (opcodeOf w) (extractFc p w) (queryPlatform p active (opcodeOf w))

/-- What the registry always is (R50, R140): one grain per key, and every key folded (R141). -/
def registryWf (p : Params) (reg : Registry) : Bool :=
  decide (reg.map Prod.fst).Nodup && reg.all (fun e => !isHardwareInternal p e.1.opcode || e.1.fc == 0)

end Sys2Proof.Machine
end

