-- ==== Sys2Proof/Machine/Boot.lean ====
section
/-! DEFINITION. Reset, boot and configuration (R500-R504), and the registry's operations on the state (R142, R144, R147). -/

namespace Sys2Proof.Machine

/-- `reset(c)` (R500): CPU c's event state alone. -/
def resetCpu (c : Nat) (s : State) : Result :=
  withCpu s c fun s _ => .next (s.setCpu c (CpuState.reset s.params))

/-- Global reset (R501): configuration begins. -/
def globalReset (s : State) : Result := .next { s with isSealed := false }

/-- Reset release (R501, R503 step 3): the seal, and `reset(c)` for every CPU of the bank. It does the same where the seal is
already set (log 32); a de-registered CPU stays so (R504). -/
def releaseReset (s : State) : Result :=
  .next { s with isSealed := true, bank := s.bank.map (List.map (Option.map fun _ => CpuState.reset s.params)) }

/-- A configuration step is refused once the registry is sealed (R4d, R146). -/
def whileUnsealed (s : State) (f : State → Result) : Result := if s.isSealed then .refused .registrySealed else f s

/-- A lookup is refused before the seal (R146). -/
def whileSealed (s : State) (f : State → Result) : Result := if s.isSealed then f s else .refused .registryUnsealed

/-- Building the bank with NUM_CPUS CPUs (R53, R503 step 1; log 16). -/
def initBank (s : State) : Result :=
  whileUnsealed s fun s => .next { s with bank := some (List.replicate s.params.numCpus (some (CpuState.reset s.params))) }

/-- Shutting the bank down: every `S[c]` is destroyed, and no operation names a CPU until the bank is built anew (R30, R452,
R504; log 16). -/
def shutdownBank (s : State) : Result := .next { s with bank := some [] }

/-- De-registering CPU c: `S[c]` is destroyed, and no operation names c until the bank is built anew (R30, R504; log 16). -/
def deregisterCpu (c : Nat) (s : State) : Result :=
  withCpu s c fun s _ => .next { s with bank := s.bank.map (fun cpus => cpus.set c none) }

/-- Writing ACTIVE_PLATFORM (R51, R503 step 2). -/
def setActivePlatform (plat : Platform) (s : State) : Result :=
  whileUnsealed s fun s => .next { s with activePlatform := plat }

/-- `register` (R142). -/
def register (op : Opcode) (fc : FnCode) (plat : Platform) (g : Grain) (s : State) : Result :=
  whileUnsealed s fun s =>
    .next ({ s with registry := (registerGrain s.params s.registry op fc plat g).2 }.emit
      [.flag (registerGrain s.params s.registry op fc plat g).1])

/-- `lookup` (R144). -/
def lookup (op : Opcode) (fc : FnCode) (plat : Platform) (s : State) : Result :=
  whileSealed s fun s => .next (s.emit [.grain (lookupGrain s.params s.registry op fc plat)])

/-- `resolve` (R147). -/
def resolve (w : Word) (s : State) : Result :=
  whileSealed s fun s => .next (s.emit [.grain (resolveGrain s.params s.registry s.activePlatform w)])

end Sys2Proof.Machine
end

