-- ==== Sys2Proof/Machine/Classifier.lean ====
section
/-! DEFINITION. The fault and trap classifier (R300-R325): combinational functions, total over closed types, and the two
operations that raise what they find. -/

namespace Sys2Proof.Machine

/-- The code of a TranslationResult (R65). -/
def TranslationResult.code : TranslationResult → BitVec 4
  | .success => 0 | .tlbMiss => 1 | .accessViolation => 2 | .nonCanonical => 3 | .pageNotPresent => 4
  | .faultOnRead => 5 | .faultOnWrite => 6 | .faultOnExecute => 7 | .unaligned => 8 | .busError => 9

/-- The code of a MemoryFaultType (R66). -/
def MemoryFaultType.code : MemoryFaultType → BitVec 3
  | .none => 0 | .dtbMissRead => 1 | .dtbMissWrite => 2 | .acvRead => 3 | .acvWrite => 4 | .faultOnRead => 5
  | .faultOnWrite => 6 | .faultOnExecute => 7

/-- `mapITranslationFault` (R302, R305). -/
def mapITranslationFault : TranslationResult → TrapClass
  | .success => .none
  | .tlbMiss => .itbMiss
  | .accessViolation => .itbAcv
  | .nonCanonical => .itbAcv
  | .pageNotPresent => .itbFault
  | .faultOnRead => .itbFault
  | .faultOnWrite => .itbFault
  | .faultOnExecute => .itbFault
  | .unaligned => .alignment
  | .busError => .machineCheck

/-- `mapDTranslationFault` (R303, R305). -/
def mapDTranslationFault : TranslationResult → TrapClass
  | .success => .none
  | .tlbMiss => .dtbMiss
  | .accessViolation => .dtbAcv
  | .nonCanonical => .dtbAcv
  | .pageNotPresent => .dtbFault
  | .faultOnRead => .dtbFault
  | .faultOnWrite => .dtbFault
  | .faultOnExecute => .dtbFault
  | .unaligned => .alignment
  | .busError => .machineCheck

/-- `mapTranslationFault` (R304). -/
def mapTranslationFault (r : TranslationResult) (isInstruction : Bool) : TrapClass :=
  if isInstruction then mapITranslationFault r else mapDTranslationFault r

/-- `decodeMMStatFaultType` (R310-R312): a value of any width, of which only bits 2..0 are read. The reserved code 7 is NONE
whatever MMSTAT_TABLE holds for it (R311; log 34). -/
def decodeMMStat (p : Params) (bits : Nat) (isWrite : Bool) : MemoryFaultType :=
  let code := bits % 8
  let row := p.mmStat.getD code (.none, .none)
  if code = 7 then .none else if isWrite then row.2 else row.1

/-- The arithmetic exception word, ARITH_W bits wide, zero-extended (R315, R316; log 18). -/
def arithWord (p : Params) (bits : Quad) : Quad := (bits.extractLsb' 0 p.arithW).setWidth 64

/-- `classifyArith` (R315). -/
def classifyArith (p : Params) (bits : Quad) : TrapClass := if arithWord p bits = 0 then .none else .arithmetic

/-- `isRecoverableFault` (R317). -/
def isRecoverableFault : TrapClass → Bool
  | .itbMiss | .dtbMiss | .itbFault | .dtbFault => true
  | .none | .arithmetic | .itbAcv | .dtbAcv | .fpDisabled | .illegalInstruction | .machineCheck | .alignment
  | .doubleFault => false

/-- The terminal classes (R318). -/
def isTerminalFault : TrapClass → Bool
  | .machineCheck | .doubleFault => true
  | .none | .arithmetic | .itbMiss | .dtbMiss | .itbFault | .dtbFault | .itbAcv | .dtbAcv | .fpDisabled
  | .illegalInstruction | .alignment => false

/-- The memory and access-violation classes of `hasPendingTranslationFault` (R442). -/
def isTranslationClass : TrapClass → Bool
  | .itbMiss | .dtbMiss | .itbFault | .dtbFault | .itbAcv | .dtbAcv => true
  | .none | .arithmetic | .fpDisabled | .illegalInstruction | .machineCheck | .alignment | .doubleFault => false

/-- `hasPendingTranslationFault` (R442). -/
def hasPendingTranslationFault (x : CpuState) (va : Quad) : Bool :=
  decide (x.slot.kind = .exception) && isTranslationClass x.slot.cls && (decide (va = 0) || decide (va = x.slot.faultVA))

/-! ### MemoryFaultInfo (R320-R324) -/

/-- `canonicalAccessType` (R320). -/
def MemoryFaultInfo.canonicalAccessType (m : MemoryFaultInfo) : AccessType :=
  if m.base.isExecute then .execute else if m.base.isWrite then .write else .read

/-- `canonicalAccessSize` (R321). -/
def MemoryFaultInfo.canonicalAccessSize (m : MemoryFaultInfo) : AccessSize :=
  if m.base.accessSize = 1 then .b1 else if m.base.accessSize = 2 then .b2 else if m.base.accessSize = 4 then .b4
  else if m.base.accessSize = 8 then .b8 else .other

/-- `canonicalTBDomain` (R322). -/
def MemoryFaultInfo.canonicalTBDomain (m : MemoryFaultInfo) : TBDomain := if m.base.isExecute then .itb else .dtb

/-- `captureFaultInfo` on one CPU's event state (R324). -/
def captureInfo (x : CpuState) (base : FaultBase) : MemoryFaultInfo := ⟨base, x.palMode, x.cm, x.asn⟩

/-! ### Operations on a CPU -/

/-- `reportTranslationFault` (R325). -/
def reportTranslationFault (c : Nat) (r : TranslationResult) (isInstruction : Bool) (va : Quad) (isWrite : Bool)
    (s : State) : Result :=
  withCpu s c fun s x =>
    let cls := mapTranslationFault r isInstruction
    if cls = .none then .next (s.emit [.trapClass cls])
    else
      let flags : EventFlags := ⟨isWrite && !isInstruction, isInstruction, decide (r = .unaligned)⟩
      .next ((s.raise c x cls va ((TranslationResult.code r).setWidth 64) flags).emit [.trapClass cls])

/-- `reportArith` (R316). -/
def reportArith (c : Nat) (bits : Quad) (s : State) : Result :=
  withCpu s c fun s x =>
    if classifyArith s.params bits = .arithmetic then
      .next (s.raise c x .arithmetic 0 (arithWord s.params bits) ⟨false, false, false⟩)
    else .next s

/-- `raiseMachineCheck` (R423). -/
def raiseMachineCheck (c : Nat) (info : Quad) (s : State) : Result :=
  withCpu s c fun s x => .next (s.raise c x .machineCheck 0 info ⟨false, false, false⟩)

/-- `captureFaultInfo` (R324): the record goes to the caller, and nothing is written. -/
def captureFaultInfo (c : Nat) (base : FaultBase) (s : State) : Result :=
  withCpu s c fun s x => .next (s.emit [.faultInfo (captureInfo x base)])

end Sys2Proof.Machine
end

