-- ==== Sys2Proof/Machine/DecodeStage.lean ====
section
/-! DEFINITION. The decode stage (R151-R154), the one operation every instruction's meaning is an instance of (R200-R263). -/

namespace Sys2Proof.Machine

/-- What the decode stage decides about a word: a trap class, or DecodeOut. -/
inductive Decision
  | trap (cls : TrapClass)
  | out (d : DecodeOut)
  deriving DecidableEq, Repr

/-- Steps 1-4 of R151, pure: they read the registry, ACTIVE_PLATFORM, palMode, PCTX.FPE and the word (R154). Step 1
takes in an opcode that either table calls unknown or vector, so that R272 and R273 hold for a changed FORMAT_OF as for a
changed UNIT_OF (R119, R275; an opcode of 0x01 to 0x07 that both tables make real: log 22). -/
def decide151 (p : Params) (reg : Registry) (active : Platform) (palMode fpe : Bool) (w : Word) : Decision :=
  let op := opcodeOf w
  let unit := route p op
  let hw := isHardwareInternal p op
  if unit = .unknown ∨ unit = .vector ∨ formatOf p op = .unknown ∨ formatOf p op = .vector then .trap .illegalInstruction
  else if hw && p.hwintRequiresPal && !palMode then .trap .illegalInstruction
  else
    match resolveGrain p reg active w with
    | none => .trap .illegalInstruction
    | some g =>
      if isFpOpcode p op && !fpe then .trap .fpDisabled
      else .out { grain := g, opcode := op, fc := extractFc p w, fmt := formatOf p op, unit := unit, hwInternal := hw }

/-- `decodeStage` on the CPU and pc of `current` (R151, R153). It needs the CPU inside the bank (R30), not halted (R48), the
registry sealed (R146), and nothing to deliver at this boundary (R431; log 31). That last is a condition on the run loop and
no load of the block's, since R151 lists no cross-CPU field among the state it reads (log 12). A trap records `faultVA = pc`
and `info = w`; the router hands DecodeOut to the selected unit, or nothing to any (R274). -/
def decodeStage (w : Word) (s : State) : Result :=
  withCpu s s.current.cpu fun s x =>
    if x.halted then .fault .cpuHalted
    else if !s.isSealed then .refused .registryUnsealed
    else if (arbitrate s.params x).kind ≠ .none then .fault .eventNotConsumed
    else
      match decide151 s.params s.registry s.activePlatform x.palMode x.fpe w with
      | .trap cls =>
        .next ((s.raise s.current.cpu x cls s.current.pc (w.setWidth 64) ⟨false, false, false⟩).emit [])
      | .out d => .next (s.emit [.decoded d])

end Sys2Proof.Machine
end

