-- ==== Sys2Proof/Machine/BranchFormat.lean ====
section
/-! DEFINITION. The meanings of the branch-format opcodes (R248-R263): each is the decode stage (R151) on the
word of the instruction. What the selected grain then computes is outside the block (R3). -/

namespace Sys2Proof.Machine

/-- BR, opcode 0x30 (R248). -/
def execBr (bits : BitVec 26) (s : State) : Result := decodeStage (encode (.br bits)) s

/-- FBEQ, opcode 0x31 (R249). -/
def execFbeq (bits : BitVec 26) (s : State) : Result := decodeStage (encode (.fbeq bits)) s

/-- FBLT, opcode 0x32 (R250). -/
def execFblt (bits : BitVec 26) (s : State) : Result := decodeStage (encode (.fblt bits)) s

/-- FBLE, opcode 0x33 (R251). -/
def execFble (bits : BitVec 26) (s : State) : Result := decodeStage (encode (.fble bits)) s

/-- BSR, opcode 0x34 (R252). -/
def execBsr (bits : BitVec 26) (s : State) : Result := decodeStage (encode (.bsr bits)) s

/-- FBNE, opcode 0x35 (R253). -/
def execFbne (bits : BitVec 26) (s : State) : Result := decodeStage (encode (.fbne bits)) s

/-- FBGE, opcode 0x36 (R254). -/
def execFbge (bits : BitVec 26) (s : State) : Result := decodeStage (encode (.fbge bits)) s

/-- FBGT, opcode 0x37 (R255). -/
def execFbgt (bits : BitVec 26) (s : State) : Result := decodeStage (encode (.fbgt bits)) s

/-- BLBC, opcode 0x38 (R256). -/
def execBlbc (bits : BitVec 26) (s : State) : Result := decodeStage (encode (.blbc bits)) s

/-- BEQ, opcode 0x39 (R257). -/
def execBeq (bits : BitVec 26) (s : State) : Result := decodeStage (encode (.beq bits)) s

/-- BLT, opcode 0x3A (R258). -/
def execBlt (bits : BitVec 26) (s : State) : Result := decodeStage (encode (.blt bits)) s

/-- BLE, opcode 0x3B (R259). -/
def execBle (bits : BitVec 26) (s : State) : Result := decodeStage (encode (.ble bits)) s

/-- BLBS, opcode 0x3C (R260). -/
def execBlbs (bits : BitVec 26) (s : State) : Result := decodeStage (encode (.blbs bits)) s

/-- BNE, opcode 0x3D (R261). -/
def execBne (bits : BitVec 26) (s : State) : Result := decodeStage (encode (.bne bits)) s

/-- BGE, opcode 0x3E (R262). -/
def execBge (bits : BitVec 26) (s : State) : Result := decodeStage (encode (.bge bits)) s

/-- BGT, opcode 0x3F (R263). -/
def execBgt (bits : BitVec 26) (s : State) : Result := decodeStage (encode (.bgt bits)) s

end Sys2Proof.Machine
end

