-- ==== Sys2Proof/Machine/CallPal.lean ====
section
/-! DEFINITION. The meanings of CALL_PAL and the jump group, which the control/PAL unit takes (R200, R226): each is the decode stage (R151) on the
word of the instruction. What the selected grain then computes is outside the block (R3). -/

namespace Sys2Proof.Machine

/-- CALL_PAL, opcode 0x00 (R200). -/
def execCallPal (fc : BitVec 26) (s : State) : Result := decodeStage (encode (.callPal fc)) s

/-- JSR, opcode 0x1A (R226). -/
def execJsr (hi : BitVec 10) (fc : BitVec 2) (lo : BitVec 14) (s : State) : Result := decodeStage (encode (.jsr hi fc lo)) s

end Sys2Proof.Machine
end

