-- ==== Sys2Proof/Machine/FloatOperate.lean ====
section
/-! DEFINITION. The meanings of the floating operate groups (R220-R223): each is the decode stage (R151) on the
word of the instruction. What the selected grain then computes is outside the block (R3). -/

namespace Sys2Proof.Machine

/-- ITFP, opcode 0x14 (R220). -/
def execItfp (hi : BitVec 10) (fc : BitVec 11) (lo : BitVec 5) (s : State) : Result := decodeStage (encode (.itfp hi fc lo)) s

/-- FLTV, opcode 0x15 (R221). -/
def execFltv (hi : BitVec 10) (fc : BitVec 11) (lo : BitVec 5) (s : State) : Result := decodeStage (encode (.fltv hi fc lo)) s

/-- FLTI, opcode 0x16 (R222). -/
def execFlti (hi : BitVec 10) (fc : BitVec 11) (lo : BitVec 5) (s : State) : Result := decodeStage (encode (.flti hi fc lo)) s

/-- FLTL, opcode 0x17 (R223). -/
def execFltl (hi : BitVec 10) (fc : BitVec 11) (lo : BitVec 5) (s : State) : Result := decodeStage (encode (.fltl hi fc lo)) s

end Sys2Proof.Machine
end

