-- ==== Sys2Proof/Machine/HwInternal.lean ====
section
/-! DEFINITION. The meanings of the hardware-internal opcodes (R225, R227, R229-R231): each is the decode stage (R151) on the
word of the instruction. What the selected grain then computes is outside the block (R3). -/

namespace Sys2Proof.Machine

/-- HW_MFPR, opcode 0x19 (R225). -/
def execHwMfpr (fc : BitVec 26) (s : State) : Result := decodeStage (encode (.hwMfpr fc)) s

/-- HW_LD, opcode 0x1B (R227). -/
def execHwLd (fc : BitVec 26) (s : State) : Result := decodeStage (encode (.hwLd fc)) s

/-- HW_MTPR, opcode 0x1D (R229). -/
def execHwMtpr (fc : BitVec 26) (s : State) : Result := decodeStage (encode (.hwMtpr fc)) s

/-- HW_REI, opcode 0x1E (R230). -/
def execHwRei (fc : BitVec 26) (s : State) : Result := decodeStage (encode (.hwRei fc)) s

/-- HW_ST, opcode 0x1F (R231). -/
def execHwSt (fc : BitVec 26) (s : State) : Result := decodeStage (encode (.hwSt fc)) s

end Sys2Proof.Machine
end

