-- ==== Sys2Proof/Machine/IntegerOperate.lean ====
section
/-! DEFINITION. The meanings of the integer operate groups (R216-R219, R228): each is the decode stage (R151) on the
word of the instruction. What the selected grain then computes is outside the block (R3). -/

namespace Sys2Proof.Machine

/-- INTA, opcode 0x10 (R216). -/
def execInta (hi : BitVec 14) (fc : BitVec 7) (lo : BitVec 5) (s : State) : Result := decodeStage (encode (.inta hi fc lo)) s

/-- INTL, opcode 0x11 (R217). -/
def execIntl (hi : BitVec 14) (fc : BitVec 7) (lo : BitVec 5) (s : State) : Result := decodeStage (encode (.intl hi fc lo)) s

/-- INTS, opcode 0x12 (R218). -/
def execInts (hi : BitVec 14) (fc : BitVec 7) (lo : BitVec 5) (s : State) : Result := decodeStage (encode (.ints hi fc lo)) s

/-- INTM, opcode 0x13 (R219). -/
def execIntm (hi : BitVec 14) (fc : BitVec 7) (lo : BitVec 5) (s : State) : Result := decodeStage (encode (.intm hi fc lo)) s

/-- FPTI, opcode 0x1C (R228). -/
def execFpti (hi : BitVec 14) (fc : BitVec 7) (lo : BitVec 5) (s : State) : Result := decodeStage (encode (.fpti hi fc lo)) s

end Sys2Proof.Machine
end

