-- ==== Sys2Proof/Machine/MemoryFormat.lean ====
section
/-! DEFINITION. The meanings of the memory-format opcodes (R208-R215, R232-R247) and the memory-with-barrier group (R224): each is the decode stage (R151) on the
word of the instruction. What the selected grain then computes is outside the block (R3). -/

namespace Sys2Proof.Machine

/-- LDA, opcode 0x08 (R208). -/
def execLda (bits : BitVec 26) (s : State) : Result := decodeStage (encode (.lda bits)) s

/-- LDAH, opcode 0x09 (R209). -/
def execLdah (bits : BitVec 26) (s : State) : Result := decodeStage (encode (.ldah bits)) s

/-- LDBU, opcode 0x0A (R210). -/
def execLdbu (bits : BitVec 26) (s : State) : Result := decodeStage (encode (.ldbu bits)) s

/-- LDQ_U, opcode 0x0B (R211). -/
def execLdqU (bits : BitVec 26) (s : State) : Result := decodeStage (encode (.ldqU bits)) s

/-- LDWU, opcode 0x0C (R212). -/
def execLdwu (bits : BitVec 26) (s : State) : Result := decodeStage (encode (.ldwu bits)) s

/-- STW, opcode 0x0D (R213). -/
def execStw (bits : BitVec 26) (s : State) : Result := decodeStage (encode (.stw bits)) s

/-- STB, opcode 0x0E (R214). -/
def execStb (bits : BitVec 26) (s : State) : Result := decodeStage (encode (.stb bits)) s

/-- STQ_U, opcode 0x0F (R215). -/
def execStqU (bits : BitVec 26) (s : State) : Result := decodeStage (encode (.stqU bits)) s

/-- MISC, opcode 0x18 (R224). -/
def execMisc (hi : BitVec 10) (fc : BitVec 16) (s : State) : Result := decodeStage (encode (.misc hi fc)) s

/-- LDF, opcode 0x20 (R232). -/
def execLdf (bits : BitVec 26) (s : State) : Result := decodeStage (encode (.ldf bits)) s

/-- LDG, opcode 0x21 (R233). -/
def execLdg (bits : BitVec 26) (s : State) : Result := decodeStage (encode (.ldg bits)) s

/-- LDS, opcode 0x22 (R234). -/
def execLds (bits : BitVec 26) (s : State) : Result := decodeStage (encode (.lds bits)) s

/-- LDT, opcode 0x23 (R235). -/
def execLdt (bits : BitVec 26) (s : State) : Result := decodeStage (encode (.ldt bits)) s

/-- STF, opcode 0x24 (R236). -/
def execStf (bits : BitVec 26) (s : State) : Result := decodeStage (encode (.stf bits)) s

/-- STG, opcode 0x25 (R237). -/
def execStg (bits : BitVec 26) (s : State) : Result := decodeStage (encode (.stg bits)) s

/-- STS, opcode 0x26 (R238). -/
def execSts (bits : BitVec 26) (s : State) : Result := decodeStage (encode (.sts bits)) s

/-- STT, opcode 0x27 (R239). -/
def execStt (bits : BitVec 26) (s : State) : Result := decodeStage (encode (.stt bits)) s

/-- LDL, opcode 0x28 (R240). -/
def execLdl (bits : BitVec 26) (s : State) : Result := decodeStage (encode (.ldl bits)) s

/-- LDQ, opcode 0x29 (R241). -/
def execLdq (bits : BitVec 26) (s : State) : Result := decodeStage (encode (.ldq bits)) s

/-- LDL_L, opcode 0x2A (R242). -/
def execLdlL (bits : BitVec 26) (s : State) : Result := decodeStage (encode (.ldlL bits)) s

/-- LDQ_L, opcode 0x2B (R243). -/
def execLdqL (bits : BitVec 26) (s : State) : Result := decodeStage (encode (.ldqL bits)) s

/-- STL, opcode 0x2C (R244). -/
def execStl (bits : BitVec 26) (s : State) : Result := decodeStage (encode (.stl bits)) s

/-- STQ, opcode 0x2D (R245). -/
def execStq (bits : BitVec 26) (s : State) : Result := decodeStage (encode (.stq bits)) s

/-- STL_C, opcode 0x2E (R246). -/
def execStlC (bits : BitVec 26) (s : State) : Result := decodeStage (encode (.stlC bits)) s

/-- STQ_C, opcode 0x2F (R247). -/
def execStqC (bits : BitVec 26) (s : State) : Result := decodeStage (encode (.stqC bits)) s

end Sys2Proof.Machine
end

