-- ==== Sys2Proof/Machine/Reserved.lean ====
section
/-! DEFINITION. The meanings of the reserved opcodes 0x01-0x07 (R201-R207, R119): under the default UNIT_OF every word of theirs is ILLEGAL_INSTRUCTION: each is the decode stage (R151) on the
word of the instruction. What the selected grain then computes is outside the block (R3). -/

namespace Sys2Proof.Machine

/-- OPC01, opcode 0x01 (R201). -/
def execOpc01 (bits : BitVec 26) (s : State) : Result := decodeStage (encode (.opc01 bits)) s

/-- OPC02, opcode 0x02 (R202). -/
def execOpc02 (bits : BitVec 26) (s : State) : Result := decodeStage (encode (.opc02 bits)) s

/-- OPC03, opcode 0x03 (R203). -/
def execOpc03 (bits : BitVec 26) (s : State) : Result := decodeStage (encode (.opc03 bits)) s

/-- OPC04, opcode 0x04 (R204). -/
def execOpc04 (bits : BitVec 26) (s : State) : Result := decodeStage (encode (.opc04 bits)) s

/-- OPC05, opcode 0x05 (R205). -/
def execOpc05 (bits : BitVec 26) (s : State) : Result := decodeStage (encode (.opc05 bits)) s

/-- OPC06, opcode 0x06 (R206). -/
def execOpc06 (bits : BitVec 26) (s : State) : Result := decodeStage (encode (.opc06 bits)) s

/-- OPC07, opcode 0x07 (R207). -/
def execOpc07 (bits : BitVec 26) (s : State) : Result := decodeStage (encode (.opc07 bits)) s

end Sys2Proof.Machine
end

