-- ==== Sys2Proof/Machine/Dispatch.lean ====
section
/-! DEFINITION. The dispatch: one arm per constructor of Instr, one direct call of its meaning. -/

namespace Sys2Proof.Machine

def exec (i : Instr) (s : State) : Host.Outcome State Fault Refusal :=
  match i with
  | .callPal fc => Sys2Proof.Machine.execCallPal fc s
  | .opc01 bits => Sys2Proof.Machine.execOpc01 bits s
  | .opc02 bits => Sys2Proof.Machine.execOpc02 bits s
  | .opc03 bits => Sys2Proof.Machine.execOpc03 bits s
  | .opc04 bits => Sys2Proof.Machine.execOpc04 bits s
  | .opc05 bits => Sys2Proof.Machine.execOpc05 bits s
  | .opc06 bits => Sys2Proof.Machine.execOpc06 bits s
  | .opc07 bits => Sys2Proof.Machine.execOpc07 bits s
  | .lda bits => Sys2Proof.Machine.execLda bits s
  | .ldah bits => Sys2Proof.Machine.execLdah bits s
  | .ldbu bits => Sys2Proof.Machine.execLdbu bits s
  | .ldqU bits => Sys2Proof.Machine.execLdqU bits s
  | .ldwu bits => Sys2Proof.Machine.execLdwu bits s
  | .stw bits => Sys2Proof.Machine.execStw bits s
  | .stb bits => Sys2Proof.Machine.execStb bits s
  | .stqU bits => Sys2Proof.Machine.execStqU bits s
  | .inta hi fc lo => Sys2Proof.Machine.execInta hi fc lo s
  | .intl hi fc lo => Sys2Proof.Machine.execIntl hi fc lo s
  | .ints hi fc lo => Sys2Proof.Machine.execInts hi fc lo s
  | .intm hi fc lo => Sys2Proof.Machine.execIntm hi fc lo s
  | .itfp hi fc lo => Sys2Proof.Machine.execItfp hi fc lo s
  | .fltv hi fc lo => Sys2Proof.Machine.execFltv hi fc lo s
  | .flti hi fc lo => Sys2Proof.Machine.execFlti hi fc lo s
  | .fltl hi fc lo => Sys2Proof.Machine.execFltl hi fc lo s
  | .misc hi fc => Sys2Proof.Machine.execMisc hi fc s
  | .hwMfpr fc => Sys2Proof.Machine.execHwMfpr fc s
  | .jsr hi fc lo => Sys2Proof.Machine.execJsr hi fc lo s
  | .hwLd fc => Sys2Proof.Machine.execHwLd fc s
  | .fpti hi fc lo => Sys2Proof.Machine.execFpti hi fc lo s
  | .hwMtpr fc => Sys2Proof.Machine.execHwMtpr fc s
  | .hwRei fc => Sys2Proof.Machine.execHwRei fc s
  | .hwSt fc => Sys2Proof.Machine.execHwSt fc s
  | .ldf bits => Sys2Proof.Machine.execLdf bits s
  | .ldg bits => Sys2Proof.Machine.execLdg bits s
  | .lds bits => Sys2Proof.Machine.execLds bits s
  | .ldt bits => Sys2Proof.Machine.execLdt bits s
  | .stf bits => Sys2Proof.Machine.execStf bits s
  | .stg bits => Sys2Proof.Machine.execStg bits s
  | .sts bits => Sys2Proof.Machine.execSts bits s
  | .stt bits => Sys2Proof.Machine.execStt bits s
  | .ldl bits => Sys2Proof.Machine.execLdl bits s
  | .ldq bits => Sys2Proof.Machine.execLdq bits s
  | .ldlL bits => Sys2Proof.Machine.execLdlL bits s
  | .ldqL bits => Sys2Proof.Machine.execLdqL bits s
  | .stl bits => Sys2Proof.Machine.execStl bits s
  | .stq bits => Sys2Proof.Machine.execStq bits s
  | .stlC bits => Sys2Proof.Machine.execStlC bits s
  | .stqC bits => Sys2Proof.Machine.execStqC bits s
  | .br bits => Sys2Proof.Machine.execBr bits s
  | .fbeq bits => Sys2Proof.Machine.execFbeq bits s
  | .fblt bits => Sys2Proof.Machine.execFblt bits s
  | .fble bits => Sys2Proof.Machine.execFble bits s
  | .bsr bits => Sys2Proof.Machine.execBsr bits s
  | .fbne bits => Sys2Proof.Machine.execFbne bits s
  | .fbge bits => Sys2Proof.Machine.execFbge bits s
  | .fbgt bits => Sys2Proof.Machine.execFbgt bits s
  | .blbc bits => Sys2Proof.Machine.execBlbc bits s
  | .beq bits => Sys2Proof.Machine.execBeq bits s
  | .blt bits => Sys2Proof.Machine.execBlt bits s
  | .ble bits => Sys2Proof.Machine.execBle bits s
  | .blbs bits => Sys2Proof.Machine.execBlbs bits s
  | .bne bits => Sys2Proof.Machine.execBne bits s
  | .bge bits => Sys2Proof.Machine.execBge bits s
  | .bgt bits => Sys2Proof.Machine.execBgt bits s

end Sys2Proof.Machine
end

