-- ==== Sys2Proof/Machine/Ipi.lean ====
section
/-! DEFINITION. Inter-processor interrupts (R450, R451). Each line of `sendIPI` and `ackIPI` is one atomic step, and other
agents' steps may come between them: the first line is performed when the operation is asked for, the next two by
`continueIPI`, and `busy` holds which one is next (log 13). -/

namespace Sys2Proof.Machine

/-- The IRQ_PENDING bit of an IPI (R450). -/
def ipiBit (p : Params) : BitVec 32 := 1#32 <<< p.ipiLevel.toNat

/-- What line 2 of `sendIPI` writes in `S[dst]` (R450). -/
def setIpiRequest (x : CpuState) : CpuState := { x with ipiRequest := true }

/-- What line 3 of `sendIPI` writes in `S[dst]` (R450). -/
def setIpiInterrupt (p : Params) (x : CpuState) : CpuState := { x with irqPending := fetchOr x.irqPending (ipiBit p) }

/-- What line 2 of `ackIPI` writes (R451). -/
def clearIpiInterrupt (p : Params) (x : CpuState) : CpuState := { x with irqPending := fetchAnd x.irqPending (~~~(ipiBit p)) }

/-- Sets the next line of CPU c's operation. -/
def State.setBusy (s : State) (c : Nat) (b : Option IpiLine) : State :=
  match s.cpu? c with
  | some x => s.setCpu c { x with busy := b }
  | none => s

/-- Line 1 of `sendIPI` (R450): publish the data. -/
def sendIPI (src dst : Nat) (data : Quad) (s : State) : Result :=
  withCpu s src fun s _ =>
    withCpu s dst fun s y =>
      .next ((s.setCpu dst { y with ipiData := data }).setBusy src (some (.sendRequest dst)))

/-- Line 1 of `ackIPI` (R451): take the request. It is an acquire, so what it observes is recorded (R96). -/
def ackIPI (c : Nat) (s : State) : Result :=
  withCpu s c fun s x =>
    .next (s.setCpu c
      { x.acquireIpi c with ipiRequest := false, busy := some (.ackInterrupt x.ipiRequest) })

/-- The next line of CPU c's unfinished operation (R450 lines 2 and 3, R451 lines 2 and 3). -/
def continueIPI (c : Nat) (s : State) : Result :=
  withCpu s c fun s x =>
    match x.busy with
    | none => .refused .noOperationInProgress
    | some (.sendRequest dst) =>
      withCpu s dst fun s y => .next ((s.setCpu dst (setIpiRequest y)).setBusy c (some (.sendInterrupt dst)))
    | some (.sendInterrupt dst) =>
      withCpu s dst fun s y => .next ((s.setCpu dst (setIpiInterrupt s.params y)).setBusy c none)
    | some (.ackInterrupt was) => .next (s.setCpu c { clearIpiInterrupt s.params x with busy := some (.ackData was) })
    | some (.ackData was) =>
      .next ((s.setCpu c { x with busy := none }).emit [.ipiAck was (if was then x.ipiData else 0)])

end Sys2Proof.Machine
end

