-- ==== Sys2Proof/Machine/PalResult.lean ====
section
/-! DEFINITION. The PalResult protocol (R340-R358): building a result, the allowed orders of its pipeline actions, and
applying it. -/

namespace Sys2Proof.Machine

/-! ### Building (R341-R350) -/

/-- The empty PalResult (R341). -/
def PalResult.empty : PalResult :=
  { hasReturn := false, retValue := 0, destReg := 0, doesReturn := false, pcModified := false, newPC := 0, faultPC := 0,
    faultVA := 0, psModified := false, newPS := 0, iplModified := false, newIPL := 0, asnModified := false, newASN := 0,
    raisesException := false, excVector := 0, haltCode := 0, flushTarget := 0, sideEffects := 0 }

/-- `tlbModified` (R344). -/
def PalResult.tlbModified (r : PalResult) : PalResult := { r with sideEffects := r.sideEffects ||| 0x01#32 }

/-- `iplChanged` (R345). -/
def PalResult.iplChanged (r : PalResult) : PalResult := { r with sideEffects := r.sideEffects ||| 0x02#32 }

/-- `memoryBarrier` (R346). -/
def PalResult.memoryBarrier (r : PalResult) : PalResult := { r with sideEffects := r.sideEffects ||| 0x04#32 }

/-- `drainWriteBuffers` (R347). -/
def PalResult.drainWriteBuffers (r : PalResult) : PalResult := { r with sideEffects := r.sideEffects ||| 0x08#32 }

/-- `requestPipelineFlush` (R348). -/
def PalResult.requestPipelineFlush (r : PalResult) (pc : Quad) : PalResult :=
  { r with sideEffects := r.sideEffects ||| 0x10#32, flushTarget := pc }

/-- `halt` (R349). -/
def PalResult.halt (r : PalResult) (code : Quad) : PalResult :=
  { r with sideEffects := r.sideEffects ||| 0x60#32, haltCode := code }

/-- `contextSwitch` (R350). -/
def PalResult.contextSwitch (r : PalResult) : PalResult := { r with sideEffects := r.sideEffects ||| 0x80#32 }

/-- One write of a privileged grain (R341, R344-R350). A vector id has VEC_W bits (R63). -/
def PalResult.write (p : Params) (r : PalResult) : PalWrite → PalResult
  | .returnValue v d => { r with hasReturn := true, retValue := v, destReg := d }
  | .doesReturn => { r with doesReturn := true }
  | .newPC t => { r with pcModified := true, newPC := t }
  | .faultAt pc va => { r with faultPC := pc, faultVA := va }
  | .newPS s => { r with psModified := true, newPS := s }
  | .newIPL l => { r with iplModified := true, newIPL := l }
  | .newASN n => { r with asnModified := true, newASN := n }
  | .raiseException v => { r with raisesException := true, excVector := vectorId p v }
  | .tlbModified => r.tlbModified
  | .iplChanged => r.iplChanged
  | .memoryBarrier => r.memoryBarrier
  | .drainWriteBuffers => r.drainWriteBuffers
  | .requestPipelineFlush pc => r.requestPipelineFlush pc
  | .halt code => r.halt code
  | .contextSwitch => r.contextSwitch

/-- The PalResult a grain's writes build, starting from the empty one (R341). -/
def PalResult.build (p : Params) (ws : List PalWrite) : PalResult := ws.foldl (PalResult.write p) PalResult.empty

/-- A PalResult with its vector cut to VEC_W bits (R63). -/
def PalResult.cut (p : Params) (r : PalResult) : PalResult := { r with excVector := vectorId p r.excVector }

/-! ### The order of the pipeline actions (R352) -/

/-- The reference order (R352). -/
def referenceEffects : List PipelineEffect :=
  [.memoryBarrier, .drainWriteBuffers, .pipelineFlush, .tlbModified, .contextSwitch, .iplChanged, .halt, .notifyHalt]

/-- HALT and NOTIFY_HALT, which come after every other effect (R352). -/
def PipelineEffect.isHalt : PipelineEffect → Bool
  | .halt | .notifyHalt => true
  | .tlbModified | .iplChanged | .memoryBarrier | .drainWriteBuffers | .pipelineFlush | .contextSwitch => false

/-- The set effects in the reference order (R352). -/
def referenceOrder (m : BitVec 32) : List PipelineEffect := referenceEffects.filter (hasEffect m)

/-- Whether `order` lists exactly the set effects, each once, with HALT and NOTIFY_HALT, in either order, after every other
and PIPELINE_FLUSH before TLB_MODIFIED if both are set (R352). -/
def allowedOrder (m : BitVec 32) (order : List PipelineEffect) : Bool :=
  decide order.Nodup && order.all (hasEffect m) &&
    referenceEffects.all (fun e => !hasEffect m e || order.contains e) &&
    (order.dropWhile (fun e => !e.isHalt)).all PipelineEffect.isHalt &&
    (!(hasEffect m .pipelineFlush && hasEffect m .tlbModified) ||
      (order.takeWhile (fun e => e != .tlbModified)).contains .pipelineFlush)

/-- The order the actions are emitted in: the one the run loop chose if R352 allows it, else the reference order. As the
choice ranges over all lists, this ranges over exactly the allowed orders (R352, I14; log 9). -/
def effectOrder (m : BitVec 32) (chosen : List PipelineEffect) : List PipelineEffect :=
  if allowedOrder m chosen then chosen else referenceOrder m

/-! ### Applying (R351-R358) -/

/-- The state deltas of step 1 (R354): each is applied only when its flag is set (R64). -/
def applyDeltas (x : CpuState) (r : PalResult) : CpuState :=
  let x := if r.psModified then { x with cm := r.newPS.extractLsb' 3 2 } else x
  let x := if r.iplModified then { x with ipl := r.newIPL } else x
  if r.asnModified then { x with pctx := pctxWithAsn x.pctx r.newASN } else x

/-- Step 5 (R353): HALT, after everything else. -/
def applyHalt (x : CpuState) (r : PalResult) : CpuState :=
  if hasEffect (effectBits r.sideEffects) .halt then { x with halted := true, haltCode := r.haltCode } else x

/-- What `applyPalResult` does to `S[c]` (R351 steps 1, 4, 5). -/
def applyToCpu (x : CpuState) (r : PalResult) : CpuState :=
  applyHalt (returnFromPal (applyDeltas x r) r.doesReturn) r

/-- The pass-through of step 2 (R355, R356). -/
def deliverOf (r : PalResult) : Deliver :=
  { hasReturn := r.hasReturn, retValue := r.retValue, destReg := r.destReg, pcModified := r.pcModified, newPC := r.newPC,
    faultPC := r.faultPC, faultVA := r.faultVA, psModified := r.psModified, newPS := r.newPS,
    raisesException := r.raisesException, excVector := r.excVector }

/-- The actions of steps 3 and 5 in the order they are emitted (R351, R357; log 10). -/
def actionsOf (r : PalResult) (chosen : List PipelineEffect) : List PipelineEffect :=
  effectOrder (effectBits r.sideEffects) chosen

/-- `applyPalResult` (R351). -/
def applyPalResult (c : Nat) (r : PalResult) (chosen : List PipelineEffect) (s : State) : Result :=
  withCpu s c fun s x =>
    if x.halted then .fault .cpuHalted
    else
      let r := r.cut s.params
      .next ((s.setCpu c (applyToCpu x r)).emit
        (.deliver (deliverOf r) :: (actionsOf r chosen).map (fun e => .action e r)))

end Sys2Proof.Machine
end

