-- ==== Sys2Proof/Machine/Serve.lean ====
section
/-! DEFINITION. Serving one request: who may ask for what (R4, R13, R47, R76), and what each operation does. A `decode`
request is the fetch: it puts the CPU and the PC where the decode stage reads them and runs the decoded instruction. -/

namespace Sys2Proof.Machine

/-- Whether the agent is a CPU agent. -/
def Agent.isCpu : Agent → Bool
  | .cpu _ => true
  | .interruptSource | .configuration | .platform => false

/-- Who may ask for an operation: the "caller" column of R13 and the "who" column of R76. A pure query (R11) may come from
any agent, since it reads no CPU's state. -/
def permitted (a : Agent) : Op → Bool
  | .decode c _ _ => a = .cpu c
  | .resolve _ => true
  | .route _ => true
  | .register _ _ _ _ => a = .configuration
  | .lookup _ _ _ => true
  | .grainCount => true
  | .computeEligibility _ _ _ _ => true
  | .mapITranslationFault _ => true
  | .mapDTranslationFault _ => true
  | .mapTranslationFault _ _ => true
  | .decodeMMStat _ _ => true
  | .classifyArith _ => true
  | .reportTranslationFault c _ _ _ _ => a = .cpu c
  | .reportArith c _ => a = .cpu c
  | .isRecoverableFault _ => true
  | .captureFaultInfo c _ => a = .cpu c
  | .raiseMachineCheck c _ => a = .cpu c
  | .setPendingEvent c _ => a = .cpu c
  | .hasPendingEvent c => a = .cpu c
  | .eventPendingState c => a = .cpu c
  | .consumeEvent c => a = .cpu c
  | .hasPendingTranslationFault c _ => a = .cpu c
  | .buildPal _ => true
  | .applyPalResult c _ _ => a = .cpu c
  | .sendIPI src _ _ => a = .cpu src
  | .ackIPI c => a = .cpu c
  | .continueIPI c => a = .cpu c
  | .readF c f => decide (a = .cpu c) || (a.isCpu && isAtomicField f)
  | .readSlot c => a = .cpu c
  | .writeF c _ _ => a = .cpu c
  | .irqSet c _ => a = .interruptSource ∨ a = .cpu c
  | .irqClear c _ => a = .interruptSource ∨ a = .cpu c
  | .astUpdate _ _ _ => a.isCpu
  | .resetCpu _ => a = .platform
  | .globalReset => a = .platform
  | .releaseReset => a = .configuration
  | .initBank => a = .configuration
  | .shutdownBank => a = .configuration
  | .deregisterCpu _ => a = .configuration
  | .setActivePlatform _ => a = .configuration

/-- Whether the operation goes on with an unfinished IPI operation. -/
def Op.isContinue : Op → Bool
  | .continueIPI _ => true
  | _ => false

/-- Why a request is turned away before it is performed, if it is: its agent may not ask for it (R47), its agent is a CPU
outside the bank (R30), or its agent has an IPI operation to finish first (R95). -/
def turnedAway (s : State) (r : Request) : Option Refusal :=
  if !permitted r.agent r.op then some .notPermitted
  else
    match r.agent with
    | .cpu a =>
      match s.touchBank.cpu? a with
      | none => some .cpuOutOfRange
      | some x => if x.busy.isSome && !r.op.isContinue then some .operationInProgress else none
    | .interruptSource | .configuration | .platform => none

/-- The id of the CPU agent, for `readF`; only a CPU agent may read (R76). -/
def Agent.reader : Agent → Option Nat
  | .cpu a => some a
  | .interruptSource | .configuration | .platform => none

/-- The fetch: the operands of the decode stage (R151, R74), then the decoded instruction. -/
def runWord (c : Nat) (w : Word) (pc : Quad) (s : State) : Result :=
  exec (decodeWord w) { s with current := ⟨c, pc⟩ }

/-- Performs an operation (R13). Those on a CPU's event state run between a global reset and reset release as at any other
time (log 33). -/
def perform (a : Agent) (op : Op) (s : State) : Result :=
  match op with
  | .decode c w pc => runWord c w pc s
  | .resolve w => resolve w s
  | .route op => .next (s.emit [.unit (route s.params op)])
  | .register op fc plat g => register op fc plat g s
  | .lookup op fc plat => lookup op fc plat s
  | .grainCount => .next (s.emit [.count (grainCount s.registry)])
  | .computeEligibility en sum mode ipl => .next (s.emit [.eligibility (computeEligibility en sum mode ipl)])
  | .mapITranslationFault r => .next (s.emit [.trapClass (mapITranslationFault r)])
  | .mapDTranslationFault r => .next (s.emit [.trapClass (mapDTranslationFault r)])
  | .mapTranslationFault r i => .next (s.emit [.trapClass (mapTranslationFault r i)])
  | .decodeMMStat bits w => .next (s.emit [.memoryFault (decodeMMStat s.params bits w)])
  | .classifyArith bits => .next (s.emit [.trapClass (classifyArith s.params bits)])
  | .reportTranslationFault c r i va w => reportTranslationFault c r i va w s
  | .reportArith c bits => reportArith c bits s
  | .isRecoverableFault cls => .next (s.emit [.flag (isRecoverableFault cls)])
  | .captureFaultInfo c base => captureFaultInfo c base s
  | .raiseMachineCheck c info => raiseMachineCheck c info s
  | .setPendingEvent c e => setPendingEvent c e s
  | .hasPendingEvent c => queryPending c (fun _ x => .flag (hasPendingEvent x)) s
  | .eventPendingState c => queryPending c (fun p x => .event (arbitrate p x)) s
  | .consumeEvent c => consumeEvent c s
  | .hasPendingTranslationFault c va => withCpu s c fun s x => .next (s.emit [.flag (hasPendingTranslationFault x va)])
  | .buildPal ws => .next (s.emit [.palResult (PalResult.build s.params ws)])
  | .applyPalResult c r order => applyPalResult c r order s
  | .sendIPI src dst data => sendIPI src dst data s
  | .ackIPI c => ackIPI c s
  | .continueIPI c => continueIPI c s
  | .readF c f =>
    match a.reader with
    | some reader => readF reader c f s
    | none => .refused .notPermitted
  | .readSlot c => readSlot c s
  | .writeF c f v => writeF c f v s
  | .irqSet c n => irqSet c n s
  | .irqClear c n => irqClear c n s
  | .astUpdate c setMask clrMask => astUpdate c setMask clrMask s
  | .resetCpu c => resetCpu c s
  | .globalReset => globalReset s
  | .releaseReset => releaseReset s
  | .initBank => initBank s
  | .shutdownBank => shutdownBank s
  | .deregisterCpu c => deregisterCpu c s
  | .setActivePlatform plat => setActivePlatform plat s

/-- Serves one request. -/
def serve (r : Request) (s : State) : Result :=
  match turnedAway s r with
  | some e => .refused e
  | none => perform r.agent r.op s

/-- The state in which the oldest request is served: it is taken off the list, and nothing is emitted yet. -/
def State.popRequest (s : State) (rest : List Request) : State := { s with requests := rest, outputs := [] }

/-- No agent asks for anything: nothing changes but that nothing is emitted (R11; log 2). -/
def idle (s : State) : Result := .next (s.emit [])

end Sys2Proof.Machine
end

