-- ==== Sys2Proof/Machine/Step.lean ====
section
/-! DEFINITION. One step: the oldest request is served (R11, R99; log 2). -/

namespace Sys2Proof.Machine

def step (s : State) : Host.Outcome State Fault Refusal :=
  match s.requests with
  | [] => idle s
  | r :: rest => serve r (s.popRequest rest)

/-- The state in which the very next step fetches and runs the word `w` (its bits above `nbits` zero) on CPU 0: the run loop's
`decode` request for it, with the PC at RESET_PC, where the run loop starts fetching (R502), stands first in the list (log 3). -/
def State.withFetchWord (s : State) (nbits w : Nat) : State :=
  { s with requests := ⟨.cpu 0, .decode 0 (BitVec.ofNat 32 (w % 2 ^ nbits)) s.params.resetPc⟩ :: s.requests }

end Sys2Proof.Machine
end

