-- ==== Sys2Proof/Safety.lean ====
section
/-! DEFINITION. What counts as a well-formed state and a safe outcome, in the terms the claims use. -/

namespace Sys2Proof.Machine

/-- What `S[c]` always is: the slot holds the NONE event or an exception whose vector has VEC_W bits (R441, R60, R61), SIRR
bit 0 is 0 (R35), and PCTX and PAL_BASE hold no bit outside their masks (R37, R43, R46). -/
def CpuState.wf (p : Params) (x : CpuState) : Bool :=
  (decide (x.slot = PendingEvent.empty) || decide (x.slot.kind = .exception ∧ x.slot.vector < 2 ^ p.vecW)) &&
    decide (x.sirr &&& 1#16 = 0) && decide (x.pctx &&& ~~~pctxMask = 0) && decide (x.palBase &&& ~~~p.palBaseMask = 0)

/-- The CPUs of the bank that are registered; none while it is uninitialized. -/
def State.cpus (s : State) : List CpuState := (s.bank.getD []).filterMap id

/-- The invariant of the block: the registry is a map over folded keys (R50, R141), and every `S[c]` is well-formed. -/
def State.wf (s : State) : Bool := registryWf s.params s.registry && s.cpus.all (CpuState.wf s.params)

/-- The outcome is a next state that keeps the invariant; a stop is safe, since nothing runs (R353, R431). -/
def safeOutcome : Result → Bool
  | .next s => s.wf
  | .fault _ => true
  | .refused _ => true

/-! ### The terms of the claims about decoding -/

/-- The parameters the default opcode table is made of have their defaults (R5, R115, R117, R118, R271, D11). -/
abbrev DefaultTables (p : Params) : Prop :=
  p.formatOf = formatOfDefault ∧ p.unitOf = unitOfDefault ∧ p.hwInternal = hwInternalDefault ∧
    p.fpOpcodes = fpOpcodesDefault ∧ p.fcMisc = ⟨0, 16⟩ ∧ p.fcJump = ⟨14, 2⟩

/-- The current CPU, whose event state is x, stands at an instruction boundary at which the decode stage may run: not
halted, the registry sealed, nothing to deliver (R151, R431). A bank not yet built counts as the one the first access
builds (R53). -/
abbrev AtBoundary (s : State) (x : CpuState) : Prop :=
  s.touchBank.cpu? s.current.cpu = some x ∧ x.halted = false ∧ s.isSealed = true ∧ (arbitrate s.params x).kind = .none

/-- The state in which DecodeOut d is handed out: nothing else is written (R152, R274). -/
def State.delivered (s : State) (d : DecodeOut) : State := s.touchBank.emit [.decoded d]

/-- The state in which the decode stage of the current CPU, x, trapped on w: the event is in the slot, no unit receives
anything (R153, R274). -/
def State.trapped (s : State) (x : CpuState) (cls : TrapClass) (w : Word) : State :=
  (s.touchBank.setCpu s.current.cpu
    { x with
      slot :=
        { kind := .exception, cls := cls, vector := classVector s.params cls, faultVA := s.current.pc,
          info := w.setWidth 64, isWrite := false, isIFetch := false, isUnaligned := false } }).emit []

/-- Instruction i, whose word is w, decodes as an opcode with no gate: with a grain for the key or its BASE fallback the
result is DecodeOut, with none it is ILLEGAL_INSTRUCTION (R151 step 3). -/
def DecodesPlain (i : Instr) (op : Opcode) (fc : FnCode) (fmt : FormatClass) (unit : ExecUnit) (w : Word) : Prop :=
  ∀ (s : State) (x : CpuState), DefaultTables s.params → AtBoundary s x →
    (∀ g, lookupGrain s.params s.registry op fc s.activePlatform = some g →
      exec i s = .next (s.delivered ⟨g, op, fc, fmt, unit, false⟩)) ∧
    (lookupGrain s.params s.registry op fc s.activePlatform = none → x.wf s.params = true →
      exec i s = .next (s.trapped x .illegalInstruction w))

/-- Instruction i, whose word is w, decodes as an opcode gated by PCTX.FPE (bit 2 of PCTX): FP_DISABLED only where there is
a grain, so that a word without one is ILLEGAL_INSTRUCTION (R151 steps 3 and 4). -/
def DecodesFp (i : Instr) (op : Opcode) (fc : FnCode) (fmt : FormatClass) (unit : ExecUnit) (w : Word) : Prop :=
  ∀ (s : State) (x : CpuState), DefaultTables s.params → AtBoundary s x →
    (∀ g, lookupGrain s.params s.registry op fc s.activePlatform = some g →
      (x.pctx.getLsbD 2 = true → exec i s = .next (s.delivered ⟨g, op, fc, fmt, unit, false⟩)) ∧
      (x.pctx.getLsbD 2 = false → x.wf s.params = true → exec i s = .next (s.trapped x .fpDisabled w))) ∧
    (lookupGrain s.params s.registry op fc s.activePlatform = none → x.wf s.params = true →
      exec i s = .next (s.trapped x .illegalInstruction w))

/-- Instruction i, whose word is w, decodes as a hardware-internal opcode: illegal outside PAL mode where the parameter
HWINT_REQUIRES_PAL says so (default 1), its platform forced to BASE (R148, R151 step 2). -/
def DecodesHw (i : Instr) (op : Opcode) (fc : FnCode) (w : Word) : Prop :=
  ∀ (s : State) (x : CpuState), DefaultTables s.params → AtBoundary s x →
    let allowed := s.params.hwintRequiresPal = false ∨ x.palMode = true
    (∀ g, allowed → lookupGrain s.params s.registry op fc Platform.base = some g →
      exec i s = .next (s.delivered ⟨g, op, fc, .pal, .hwInternal, true⟩)) ∧
    (allowed → lookupGrain s.params s.registry op fc Platform.base = none → x.wf s.params = true →
      exec i s = .next (s.trapped x .illegalInstruction w)) ∧
    (¬ allowed → x.wf s.params = true → exec i s = .next (s.trapped x .illegalInstruction w))

/-- Instruction i, whose word is w, is reserved: ILLEGAL_INSTRUCTION whatever the registry holds (R119, R151 step 1). -/
def DecodesReserved (i : Instr) (w : Word) : Prop :=
  ∀ (s : State) (x : CpuState), DefaultTables s.params → AtBoundary s x → x.wf s.params = true →
    exec i s = .next (s.trapped x .illegalInstruction w)

/-! ### The terms of the claims about arbitration -/

/-- Level n is pending, enabled, and above the IPL (R420). -/
abbrev Deliverable (p : Params) (x : CpuState) (n : Nat) : Prop :=
  1 ≤ n ∧ n ≤ 31 ∧ x.ier.getLsbD n = true ∧ x.ipl.toNat < n ∧
    (x.irqPending.getLsbD n = true ∨ x.sirr.getLsbD n = true ∨ (x.ipiRequest = true ∧ n = p.ipiLevel.toNat))

/-- Mode t has an AST pending and enabled, and the current mode is no more privileged than t (R410). -/
abbrev AstCandidate (en sum : BitVec 4) (mode t : Mode) : Prop :=
  sum.getLsbD (Mode.code t).toNat = true ∧ en.getLsbD (Mode.code t).toNat = true ∧ Mode.code t ≤ Mode.code mode

end Sys2Proof.Machine
end

