-- ==== Sys2Proof/Certificates/Slice0/Obligations.lean ====
section
/-! DEFINITION. The statements for the provers. Each docstring names the rules of spec/ it formalises; a clause that is the
model's own choice names its log entry. -/

section

open Sys2Proof Sys2Proof.Machine

/-! ### Decoding and encoding -/

/-- A step that serves a decode request runs the instruction the fetched word decodes to, on the CPU and PC of the
request; the word is the one the fetch unit builds from its four bytes (R91, R147, R151). The request list is the model's
own (log 2, log 3). -/
def Obligations.StepRunsTheDecodedInstruction : Prop :=
  ∀ (s : State) (c : Nat) (b0 b1 b2 b3 : Byte) (pc : Quad) (rest : List Request) (x : CpuState) (i : Instr) (bs : List Byte),
    decodeBytes s.params.fetchByteOrder (b0 :: b1 :: b2 :: b3 :: bs) = .ok (i, bs) →
    s.requests = ⟨.cpu c, .decode c (assembleWord s.params.fetchByteOrder b0 b1 b2 b3) pc⟩ :: rest →
    s.touchBank.cpu? c = some x → x.busy = none →
      step s = exec i { s with requests := rest, outputs := [], current := ⟨c, pc⟩ }

/-- What the host places for the next fetch is what the next step runs: the word on CPU 0 with the PC at RESET_PC, where
the run loop starts (R502; log 3). -/
def Obligations.PlacedWordIsTheNextInstruction : Prop :=
  ∀ (s : State) (nbits w : Nat) (x : CpuState),
    s.touchBank.cpu? 0 = some x → x.busy = none →
      step (s.withFetchWord nbits w) =
        exec (decodeWord (BitVec.ofNat 32 (w % 2 ^ nbits))) { s with outputs := [], current := ⟨0, s.params.resetPc⟩ }

/-- Decoding an encoded instruction gives it back, for every instruction and every value of its fields (R110, R111,
R114, R118). -/
def Obligations.DecodeOfEncodeIsTheInstruction : Prop := ∀ i : Instr, decodeWord (encode i) = i

/-- Every word has one meaning: encoding what it decodes to gives the word back, no bit dropped (R110, R111). -/
def Obligations.EncodeOfDecodeIsTheWord : Prop := ∀ w : Word, encode (decodeWord w) = w

/-- From bytes, in either byte order: the byte at the lowest address is the word's lowest one in little-endian order and its
highest one in big-endian order; an instruction laid out in memory is read back, with the bytes after it left over; fewer than
four bytes are no instruction (R91, R110). What big-endian is, and the name of that rejection, are the model's (log 24). -/
def Obligations.InstructionBytesReadBack : Prop :=
  (∀ (o : ByteOrder) (i : Instr) (bs : List Byte), decodeBytes o (layWord o (encode i) ++ bs) = .ok (i, bs)) ∧
  (∀ (o : ByteOrder) (bs : List Byte), bs.length < 4 → decodeBytes o bs = .error .truncated) ∧
  (∀ b0 b1 b2 b3 : Byte,
    (∀ e ∈ [(0, b0), (8, b1), (16, b2), (24, b3)], (assembleWord .little b0 b1 b2 b3).extractLsb' e.1 8 = e.2) ∧
    (∀ e ∈ [(24, b0), (16, b1), (8, b2), (0, b3)], (assembleWord .big b0 b1 b2 b3).extractLsb' e.1 8 = e.2))

/-- Words of the spec's worked examples decode to the instructions they stand for (R200, R216, R222, R225, R226, R241,
R257). -/
def Obligations.WorkedExampleWordsDecode : Prop :=
  decodeWord 0x00000086#32 = .callPal 0x86#26 ∧
  decodeWord 0x40220403#32 = .inta 0b00001000100000#14 0x20#7 3#5 ∧
  decodeWord 0x58221403#32 = .flti 0b0000100010#10 0xA0#11 3#5 ∧
  decodeWord 0x64220041#32 = .hwMfpr 0x220041#26 ∧
  decodeWord 0x6BFA8000#32 = .jsr 0b1111111010#10 2#2 0#14 ∧
  decodeWord 0xA4220010#32 = .ldq 0x220010#26 ∧
  decodeWord 0xE4200004#32 = .beq 0x200004#26

/-- Under the default parameters the function code of an instruction's word is the field its opcode's format class names,
zero-extended, and 0 where the class has none (R113, R114, R115, R116, R118). -/
def Obligations.FunctionCodeIsTheFormatsField : Prop :=
  ∀ (p : Params) (i : Instr), DefaultTables p → extractFc p (encode i) = i.fnCode

/-- Two words with the same opcode and the same function code decode alike, whatever their other bits: the same DecodeOut,
the same stop, or the same trap, each recording its own word (R154, R121, R153). -/
def Obligations.UnreadBitsDoNotAffectDecode : Prop :=
  ∀ (s : State) (w v : Word), opcodeOf w = opcodeOf v → extractFc s.params w = extractFc s.params v →
    (∀ t d, exec (decodeWord w) s = .next t → t.outputs = [.decoded d] → exec (decodeWord v) s = .next t) ∧
    (∀ t, exec (decodeWord w) s = .next t → t.outputs = [] →
      ∃ (x : CpuState) (cls : TrapClass), ∀ z ∈ [w, v], exec (decodeWord z) s =
        .next ((s.touchBank.raise s.current.cpu x cls s.current.pc (z.setWidth 64) ⟨false, false, false⟩).emit [])) ∧
    (∀ f, exec (decodeWord w) s = .fault f → exec (decodeWord v) s = .fault f) ∧
    (∀ r, exec (decodeWord w) s = .refused r → exec (decodeWord v) s = .refused r)

/-! ### The opcode groups -/

/-- CALL_PAL, whose whole w[25:0] is the function code; MISC, with w[15:0]; JSR, with w[15:14], not folded and on the active
platform (R200, R224, R226). -/
def Obligations.CallPalMiscAndJumpGroupsDecode : Prop :=
  (∀ fc : BitVec 26, DecodesPlain (.callPal fc) 0x00 fc .pal .controlPal (0x00#6 ++ fc)) ∧
  (∀ (hi : BitVec 10) (fc : BitVec 16),
    DecodesPlain (.misc hi fc) 0x18 (fc.setWidth 26) .memoryBarrier .memory (0x18#6 ++ (hi ++ fc))) ∧
  (∀ (hi : BitVec 10) (fc : BitVec 2) (lo : BitVec 14),
    DecodesPlain (.jsr hi fc lo) 0x1A (fc.setWidth 26) .jump .controlPal (0x1A#6 ++ (hi ++ fc ++ lo)))

/-- OPC01 to OPC07 are reserved (R201-R207). -/
def Obligations.ReservedGroupsAreIllegal : Prop :=
  ∀ (bits : BitVec 26),
    ∀ e ∈ [(Instr.opc01 bits, 0x01#6), (.opc02 bits, 0x02#6), (.opc03 bits, 0x03#6), (.opc04 bits, 0x04#6),
        (.opc05 bits, 0x05#6), (.opc06 bits, 0x06#6), (.opc07 bits, 0x07#6)],
      DecodesReserved e.1 (e.2 ++ bits)

/-- LDA, LDAH, LDBU, LDQ_U, LDWU, STW, STB, STQ_U (R208-R215). -/
def Obligations.LowMemoryGroupsDecode : Prop :=
  ∀ (bits : BitVec 26),
    ∀ e ∈ [(Instr.lda bits, 0x08#6), (.ldah bits, 0x09#6), (.ldbu bits, 0x0A#6), (.ldqU bits, 0x0B#6),
        (.ldwu bits, 0x0C#6), (.stw bits, 0x0D#6), (.stb bits, 0x0E#6), (.stqU bits, 0x0F#6)],
      DecodesPlain e.1 e.2 0 .memory .memory (e.2 ++ bits)

/-- INTA, INTL, INTS, INTM, FPTI: the function code is w[11:5] (R216-R219, R228). -/
def Obligations.IntegerOperateGroupsDecode : Prop :=
  ∀ (hi : BitVec 14) (fc : BitVec 7) (lo : BitVec 5),
    ∀ e ∈ [(Instr.inta hi fc lo, 0x10#6), (.intl hi fc lo, 0x11#6), (.ints hi fc lo, 0x12#6), (.intm hi fc lo, 0x13#6),
        (.fpti hi fc lo, 0x1C#6)],
      DecodesPlain e.1 e.2 (fc.setWidth 26) .operate .integer (e.2 ++ (hi ++ fc ++ lo))

/-- ITFP, FLTV, FLTI, FLTL: the function code is w[15:5], and PCTX.FPE gates them (R220-R223). -/
def Obligations.FloatOperateGroupsDecode : Prop :=
  ∀ (hi : BitVec 10) (fc : BitVec 11) (lo : BitVec 5),
    ∀ e ∈ [(Instr.itfp hi fc lo, 0x14#6), (.fltv hi fc lo, 0x15#6), (.flti hi fc lo, 0x16#6), (.fltl hi fc lo, 0x17#6)],
      DecodesFp e.1 e.2 (fc.setWidth 26) .float .float (e.2 ++ (hi ++ fc ++ lo))

/-- HW_MFPR, HW_LD, HW_MTPR, HW_REI, HW_ST: illegal outside PAL mode where HWINT_REQUIRES_PAL is 1, one grain for all
function codes, the platform forced to BASE (R225, R227, R229, R230, R231). -/
def Obligations.HardwareInternalGroupsDecode : Prop :=
  ∀ (fc : BitVec 26),
    ∀ e ∈ [(Instr.hwMfpr fc, 0x19#6), (.hwLd fc, 0x1B#6), (.hwMtpr fc, 0x1D#6), (.hwRei fc, 0x1E#6), (.hwSt fc, 0x1F#6)],
      DecodesHw e.1 e.2 fc (e.2 ++ fc)

/-- LDF, LDG, LDS, LDT, STF, STG, STS, STT: memory format, gated by PCTX.FPE (R232-R239). -/
def Obligations.FloatMemoryGroupsDecode : Prop :=
  ∀ (bits : BitVec 26),
    ∀ e ∈ [(Instr.ldf bits, 0x20#6), (.ldg bits, 0x21#6), (.lds bits, 0x22#6), (.ldt bits, 0x23#6),
        (.stf bits, 0x24#6), (.stg bits, 0x25#6), (.sts bits, 0x26#6), (.stt bits, 0x27#6)],
      DecodesFp e.1 e.2 0 .memory .memory (e.2 ++ bits)

/-- LDL, LDQ, LDL_L, LDQ_L, STL, STQ, STL_C, STQ_C (R240-R247). -/
def Obligations.HighMemoryGroupsDecode : Prop :=
  ∀ (bits : BitVec 26),
    ∀ e ∈ [(Instr.ldl bits, 0x28#6), (.ldq bits, 0x29#6), (.ldlL bits, 0x2A#6), (.ldqL bits, 0x2B#6),
        (.stl bits, 0x2C#6), (.stq bits, 0x2D#6), (.stlC bits, 0x2E#6), (.stqC bits, 0x2F#6)],
      DecodesPlain e.1 e.2 0 .memory .memory (e.2 ++ bits)

/-- FBEQ, FBLT, FBLE, FBNE, FBGE, FBGT: branch format, gated by PCTX.FPE (R249-R251, R253-R255). -/
def Obligations.FloatBranchGroupsDecode : Prop :=
  ∀ (bits : BitVec 26),
    ∀ e ∈ [(Instr.fbeq bits, 0x31#6), (.fblt bits, 0x32#6), (.fble bits, 0x33#6), (.fbne bits, 0x35#6),
        (.fbge bits, 0x36#6), (.fbgt bits, 0x37#6)],
      DecodesFp e.1 e.2 0 .branch .controlPal (e.2 ++ bits)

/-- BR, BSR, BLBC, BEQ, BLT, BLE, BLBS, BNE, BGE, BGT (R248, R252, R256-R263). -/
def Obligations.IntegerBranchGroupsDecode : Prop :=
  ∀ (bits : BitVec 26),
    ∀ e ∈ [(Instr.br bits, 0x30#6), (.bsr bits, 0x34#6), (.blbc bits, 0x38#6), (.beq bits, 0x39#6), (.blt bits, 0x3A#6),
        (.ble bits, 0x3B#6), (.blbs bits, 0x3C#6), (.bne bits, 0x3D#6), (.bge bits, 0x3E#6), (.bgt bits, 0x3F#6)],
      DecodesPlain e.1 e.2 0 .branch .controlPal (e.2 ++ bits)

/-! ### The decode stage for any parameters -/

/-- The decode stage's checks in their order, whatever the tables are: the first that applies decides (R151, R153). Step 1
takes in an opcode that either FORMAT_OF or UNIT_OF calls unknown or vector (R119, R272, R273, R275); that one of 0x01 to 0x07
which both tables make real decodes like any other is the model's reading (log 22). -/
def Obligations.DecodeStageChecksInOrder : Prop :=
  ∀ (w : Word) (s : State) (x : CpuState), AtBoundary s x → x.wf s.params = true →
    let p := s.params
    let op := opcodeOf w
    let noUnit := route p op = .unknown ∨ route p op = .vector ∨ formatOf p op = .unknown ∨ formatOf p op = .vector
    let outsidePal := isHardwareInternal p op = true ∧ p.hwintRequiresPal = true ∧ x.palMode = false
    let found := lookupGrain p s.registry op (extractFc p w) (if isHardwareInternal p op then Platform.base else s.activePlatform)
    let noFp := isFpOpcode p op = true ∧ x.pctx.getLsbD 2 = false
    (noUnit → exec (decodeWord w) s = .next (s.trapped x .illegalInstruction w)) ∧
    (¬ noUnit → outsidePal → exec (decodeWord w) s = .next (s.trapped x .illegalInstruction w)) ∧
    (¬ noUnit → ¬ outsidePal → found = none → exec (decodeWord w) s = .next (s.trapped x .illegalInstruction w)) ∧
    (∀ g, ¬ noUnit → ¬ outsidePal → found = some g → noFp → exec (decodeWord w) s = .next (s.trapped x .fpDisabled w)) ∧
    (∀ g, ¬ noUnit → ¬ outsidePal → found = some g → ¬ noFp →
      exec (decodeWord w) s =
        .next (s.delivered ⟨g, op, extractFc p w, formatOf p op, route p op, isHardwareInternal p op⟩))

/-- Where no instruction decodes: a CPU outside the bank is refused (R30), a halted CPU has no step (R48, R353), the
registry must be sealed (R146), and an event must be consumed first (R431). The order in which these are looked at is the
model's (log 6). -/
def Obligations.DecodeStopsByName : Prop :=
  ∀ (i : Instr) (s : State),
    (s.touchBank.cpu? s.current.cpu = none → exec i s = .refused .cpuOutOfRange) ∧
    (∀ x, s.touchBank.cpu? s.current.cpu = some x →
      (x.halted = true → exec i s = .fault .cpuHalted) ∧
      (x.halted = false → s.isSealed = false → exec i s = .refused .registryUnsealed) ∧
      (x.halted = false → s.isSealed = true → (arbitrate s.params x).kind ≠ .none → exec i s = .fault .eventNotConsumed))

/-- The frame of every instruction: only the current CPU's slot and the outputs may change, and with an output the slot
does not (R153: "The decode stage writes no other state"). -/
def Obligations.DecodeChangesOnlyTheSlot : Prop :=
  ∀ (i : Instr) (s t : State), exec i s = .next t →
    t.params = s.params ∧ t.registry = s.registry ∧ t.activePlatform = s.activePlatform ∧ t.isSealed = s.isSealed ∧
    t.current = s.current ∧ t.requests = s.requests ∧ t.draws = s.draws ∧
    (∀ c, c ≠ s.current.cpu → t.cpu? c = s.touchBank.cpu? c) ∧
    (∃ (x : CpuState) (e : PendingEvent), s.touchBank.cpu? s.current.cpu = some x ∧
      t.cpu? s.current.cpu = some { x with slot := e } ∧ (t.outputs ≠ [] → e = x.slot))

/-! ### The registry -/

/-- Registration needs the registry unsealed; lookup, resolve and decode need it sealed; otherwise they are refused
(R146). -/
def Obligations.SealSeparatesRegistrationFromLookup : Prop :=
  ∀ (s : State) (op : Opcode) (fc : FnCode) (plat : Platform) (g : Grain) (w : Word) (i : Instr) (x : CpuState),
    (s.isSealed = true → register op fc plat g s = .refused .registrySealed) ∧
    (s.isSealed = false → lookup op fc plat s = .refused .registryUnsealed ∧ resolve w s = .refused .registryUnsealed ∧
      (s.touchBank.cpu? s.current.cpu = some x → x.halted = false → exec i s = .refused .registryUnsealed))

/-- `register`: refused after the seal; before it a duplicate of the folded key is ignored and answers false; a new key holds
the grain, every other key holds what it held, the count grows by one, and nothing else is written (R142, R143). -/
def Obligations.RegisterStoresUnderTheFoldedKey : Prop :=
  ∀ (op : Opcode) (fc : FnCode) (plat : Platform) (g : Grain) (s : State),
    let k : GrainKey := ⟨op, if isHardwareInternal s.params op then 0 else fc, plat⟩
    (s.isSealed = true → register op fc plat g s = .refused .registrySealed) ∧
    (s.isSealed = false →
      ((grainAt s.registry k).isSome = true → register op fc plat g s = .next (s.emit [.flag false])) ∧
      (grainAt s.registry k = none → ∃ reg, register op fc plat g s = .next ({ s with registry := reg }.emit [.flag true]) ∧
        (∀ k', grainAt reg k' = if k' = k then some g else grainAt s.registry k') ∧
        grainCount reg = grainCount s.registry + 1))

/-- Registering a key not yet registered and then looking it up, after the seal, gives the same grain (R155). -/
def Obligations.RegistryRoundTrip : Prop :=
  ∀ (op : Opcode) (fc : FnCode) (plat : Platform) (g : Grain) (s : State), s.isSealed = false →
    grainAt s.registry (foldKey s.params op fc plat) = none →
      ∃ t, register op fc plat g s = .next t ∧
        lookup op fc plat { t with isSealed := true } = .next ({ t with isSealed := true }.emit [.grain (some g)])

/-- All function codes of a hardware-internal opcode are one key; any other opcode's function codes are separate keys, the
jump-family opcode's too (R141). -/
def Obligations.OnlyHardwareInternalCodesFold : Prop :=
  ∀ (p : Params) (reg : Registry) (op : Opcode) (fc fc' : FnCode) (plat plat' : Platform) (g : Grain),
    (isHardwareInternal p op = true → grainAt reg ⟨op, 0, plat⟩ = none →
      lookupGrain p (registerGrain p reg op fc plat g).2 op fc' plat = some g) ∧
    (isHardwareInternal p op = false → fc ≠ fc' →
      lookupGrain p (registerGrain p reg op fc plat g).2 op fc' plat' = lookupGrain p reg op fc' plat')

/-- `lookup`: refused before the seal; after it the exact folded key, then once the BASE key, then none, and nothing is
written (R144). -/
def Obligations.LookupFallsBackOnceToBase : Prop :=
  ∀ (op : Opcode) (fc : FnCode) (plat : Platform) (s : State),
    let k : GrainKey := ⟨op, if isHardwareInternal s.params op then 0 else fc, plat⟩
    (s.isSealed = false → lookup op fc plat s = .refused .registryUnsealed) ∧
    (s.isSealed = true →
      (∀ g, grainAt s.registry k = some g → lookup op fc plat s = .next (s.emit [.grain (some g)])) ∧
      (∀ g, grainAt s.registry k = none → plat ≠ Platform.base →
        grainAt s.registry { k with platform := Platform.base } = some g →
          lookup op fc plat s = .next (s.emit [.grain (some g)])) ∧
      (grainAt s.registry k = none → (plat = Platform.base ∨ grainAt s.registry { k with platform := Platform.base } = none) →
        lookup op fc plat s = .next (s.emit [.grain none])))

/-- `resolve` queries the active platform, but BASE for a hardware-internal opcode; so one whose grains are all registered
off BASE is never found (R147, R148). -/
def Obligations.HardwareInternalGrainsLiveUnderBase : Prop :=
  ∀ (s : State) (w : Word),
    (isHardwareInternal s.params (opcodeOf w) = false →
      resolve w s = lookup (opcodeOf w) (extractFc s.params w) s.activePlatform s) ∧
    (isHardwareInternal s.params (opcodeOf w) = true →
      resolve w s = lookup (opcodeOf w) (extractFc s.params w) Platform.base s) ∧
    (s.isSealed = true → isHardwareInternal s.params (opcodeOf w) = true →
      (∀ e ∈ s.registry, e.1.opcode = opcodeOf w → e.1.platform ≠ Platform.base) →
        resolve w s = .next (s.emit [.grain none]))

/-- Once sealed, no step changes the registry or the active platform (R50, R51, R101, R146). -/
def Obligations.SealedTablesAreReadOnly : Prop :=
  ∀ s t : State, s.isSealed = true → step s = .next t →
    t.registry = s.registry ∧ t.activePlatform = s.activePlatform ∧ t.params = s.params

/-! ### The arbiter -/

/-- `computeEligibility`: eligible exactly when the IPL is at most 2 and some mode is a candidate; then the target is the
most privileged candidate. When it is not eligible nothing is claimed of the target, which then has no meaning (R411). -/
def Obligations.AstTargetIsMostPrivileged : Prop :=
  ∀ (en sum : BitVec 4) (mode : Mode) (ipl : BitVec 5),
    let r := computeEligibility en sum mode ipl
    (r.eligible = true ↔ ipl.toNat ≤ 2 ∧ ∃ t, AstCandidate en sum mode t) ∧
    (r.eligible = true → AstCandidate en sum mode r.targetMode ∧
      ∀ t, AstCandidate en sum mode t → Mode.code r.targetMode ≤ Mode.code t)

/-- `intrLevel` is the highest level that is pending, enabled and above the IPL, or none (R420). -/
def Obligations.InterruptLevelIsTheHighestDeliverable : Prop :=
  ∀ (p : Params) (x : CpuState),
    (∀ n, intrLevel p x = some n ↔ Deliverable p x n ∧ ∀ m, Deliverable p x m → m ≤ n) ∧
    (intrLevel p x = none ↔ ∀ n, ¬ Deliverable p x n)

/-- `arbitrate`: the slot's exception first, masked by nothing; in PAL mode nothing else; then the highest deliverable
interrupt; then an eligible AST; each event as R421 and R413 give it (R430). -/
def Obligations.ArbiterPriority : Prop :=
  ∀ (p : Params) (x : CpuState),
    let ast := computeEligibility x.asten x.astsr x.mode x.ipl
    (x.slot.kind = .exception → arbitrate p x = x.slot) ∧
    (x.slot.kind ≠ .exception → x.palMode = true → arbitrate p x = PendingEvent.empty) ∧
    (x.slot.kind ≠ .exception → x.palMode = false →
      (∀ n, Deliverable p x n → (∀ m, Deliverable p x m → m ≤ n) →
        arbitrate p x = ⟨.interrupt, .none, vectorOf p .interrupt, 0, BitVec.ofNat 64 n, false, false, false⟩) ∧
      ((∀ n, ¬ Deliverable p x n) → ast.eligible = true →
        arbitrate p x = ⟨.ast, .none, vectorOf p .ast, 0, (Mode.code ast.targetMode).setWidth 64, false, false, false⟩) ∧
      ((∀ n, ¬ Deliverable p x n) → ast.eligible = false → arbitrate p x = PendingEvent.empty))

/-- `eventPendingState` hands back what the arbiter picks, and the has-pending-event flag is 0 exactly when no source is
pending; then the arbiter picks the NONE event. Neither writes anything but the model's record of the acquire (R44, R432; log
12). -/
def Obligations.NothingPendingMeansNoEvent : Prop :=
  ∀ (a : Agent) (s : State) (c : Nat) (x : CpuState), s.touchBank.cpu? c = some x →
    (∃ seen, perform a (.eventPendingState c) s =
      .next ((s.touchBank.setCpu c { x with ipiSeen := seen }).emit [.event (arbitrate s.params x)])) ∧
    (∃ seen, perform a (.hasPendingEvent c) s =
      .next ((s.touchBank.setCpu c { x with ipiSeen := seen }).emit [.flag (hasPendingEvent x)])) ∧
    (hasPendingEvent x = false ↔
      x.slot.kind = .none ∧ x.irqPending = 0 ∧ x.sirr = 0 ∧ x.ipiRequest = false ∧ x.astsr &&& x.asten = 0) ∧
    (hasPendingEvent x = false → arbitrate s.params x = PendingEvent.empty)

/-! ### Taking an exception and the dispatcher -/

/-- `consumeEvent`: the delivered event is handed back, a delivered exception leaves the slot, any event enters PAL mode,
and nothing else changes, but for the model's record of the acquire (log 12); a halted CPU has no such step (R433, R434). -/
def Obligations.ConsumeEventEntersPalMode : Prop :=
  ∀ (s : State) (c : Nat) (x : CpuState), s.touchBank.cpu? c = some x →
    (x.halted = true → consumeEvent c s = .fault .cpuHalted) ∧
    (x.halted = false → ∃ seen,
      let e := arbitrate s.params x
      (e.kind = .none → consumeEvent c s = .next ((s.touchBank.setCpu c { x with ipiSeen := seen }).emit [.event e])) ∧
      (e.kind = .exception → consumeEvent c s = .next ((s.touchBank.setCpu c
        { x with slot := PendingEvent.empty, palMode := true, ipiSeen := seen }).emit [.event e])) ∧
      (e.kind = .interrupt ∨ e.kind = .ast → consumeEvent c s =
        .next ((s.touchBank.setCpu c { x with palMode := true, ipiSeen := seen }).emit [.event e])))

/-- After an event is consumed nothing is deliverable, though every source bit stands; and nothing becomes so whatever the CPU's
other fields come to hold, as long as the slot and PAL mode stay as consuming the event left them (R433, R430 step 3; a new
exception in the slot is delivered, R437). -/
def Obligations.ConsumedEventIsNotTakenAgain : Prop :=
  ∀ (p : Params) (x : CpuState), (arbitrate p x).kind ≠ .none →
    let y := consume x (arbitrate p x)
    arbitrate p y = PendingEvent.empty ∧ y.irqPending = x.irqPending ∧ y.sirr = x.sirr ∧ y.ipiRequest = x.ipiRequest ∧
      y.pctx = x.pctx ∧ y.ipl = x.ipl ∧ y.cm = x.cm ∧
      ∀ z : CpuState, z.slot = y.slot → z.palMode = y.palMode → arbitrate p z = PendingEvent.empty

/-- `setPendingEvent`, the documented collision policy; a CPU outside the bank is refused (R440). The slot's vector has VEC_W
bits (R60; that a wider one is cut is log 19). -/
def Obligations.CollisionPolicy : Prop :=
  (∀ (s : State) (c : Nat) (e : PendingEvent), s.touchBank.cpu? c = none → e.kind ≠ .none →
    setPendingEvent c e s = .refused .cpuOutOfRange) ∧
  ∀ (s : State) (c : Nat) (x : CpuState) (e : PendingEvent), s.touchBank.cpu? c = some x →
    let e' := { e with vector := e.vector % 2 ^ s.params.vecW }
    (e.kind = .none → setPendingEvent c e s = .refused .noneEventPosted) ∧
    (e.kind = .interrupt → setPendingEvent c e s = .next (s.touchBank.setCpu c
      { x with irqPending := x.irqPending ||| 1#32 <<< (e.info.extractLsb' 0 5).toNat })) ∧
    (e.kind = .ast → setPendingEvent c e s = .next (s.touchBank.setCpu c
      { x with pctx := x.pctx ||| 1#64 <<< (9 + (e.info.extractLsb' 0 2).toNat) })) ∧
    (e.kind = .exception →
      (x.slot.kind = .none → setPendingEvent c e s = .next (s.touchBank.setCpu c { x with slot := e' })) ∧
      (x.slot.kind ≠ .none →
        (x.slot.cls = .machineCheck → setPendingEvent c e s = .next s.touchBank) ∧
        (x.slot.cls ≠ .machineCheck → e.cls = .machineCheck →
          setPendingEvent c e s = .next (s.touchBank.setCpu c { x with slot := e' })) ∧
        (x.slot.cls = .doubleFault → e.cls ≠ .machineCheck → setPendingEvent c e s = .next s.touchBank) ∧
        (x.slot.cls ≠ .machineCheck → x.slot.cls ≠ .doubleFault → e.cls ≠ .machineCheck →
          setPendingEvent c e s = .next (s.touchBank.setCpu c
            { x with slot := { x.slot with cls := .doubleFault, vector := vectorOf s.params .doubleFault } }))))

/-- No fault is dropped silently: after an exception is posted the slot holds it, its vector in VEC_W bits (R60; log 19), or
holds a terminal event; and an event that is escalated keeps the first one's address, info and flags (R440). -/
def Obligations.NoFaultIsDropped : Prop :=
  ∀ (p : Params) (x : CpuState) (e : PendingEvent), x.wf p = true → e.kind = .exception →
    let y := postEvent p x e
    y.wf p = true ∧ y.slot.kind = .exception ∧
    (y.slot = { e with vector := e.vector % 2 ^ p.vecW } ∨ y.slot.cls = .machineCheck ∨ y.slot.cls = .doubleFault) ∧
    (x.slot.kind = .exception → e.cls ≠ .machineCheck →
      y.slot.faultVA = x.slot.faultVA ∧ y.slot.info = x.slot.info ∧ y.slot.isWrite = x.slot.isWrite ∧
      y.slot.isIFetch = x.slot.isIFetch ∧ y.slot.isUnaligned = x.slot.isUnaligned)

/-- `hasPendingTranslationFault` (R442). -/
def Obligations.TranslationFaultQuery : Prop :=
  ∀ (a : Agent) (s : State) (c : Nat) (x : CpuState) (va : Quad), s.touchBank.cpu? c = some x →
    ∃ b, perform a (.hasPendingTranslationFault c va) s = .next (s.touchBank.emit [.flag b]) ∧
      (b = true ↔ x.slot.kind = .exception ∧
        x.slot.cls ∈ [TrapClass.itbMiss, .dtbMiss, .itbFault, .dtbFault, .itbAcv, .dtbAcv] ∧
        (va = 0 ∨ va = x.slot.faultVA))

/-! ### The classifier -/

/-- The two translation-outcome tables, the entry point over both, that NONE is the answer for SUCCESS alone (R302,
R303, R304, R305), and the recoverable and the terminal classes (R317, R318). -/
def Obligations.TranslationOutcomesAreClassified : Prop :=
  (∀ r, mapTranslationFault r true =
    match r with
    | .success => TrapClass.none
    | .tlbMiss => .itbMiss
    | .accessViolation | .nonCanonical => .itbAcv
    | .pageNotPresent | .faultOnRead | .faultOnWrite | .faultOnExecute => .itbFault
    | .unaligned => .alignment
    | .busError => .machineCheck) ∧
  (∀ r, mapTranslationFault r false =
    match r with
    | .success => TrapClass.none
    | .tlbMiss => .dtbMiss
    | .accessViolation | .nonCanonical => .dtbAcv
    | .pageNotPresent | .faultOnRead | .faultOnWrite | .faultOnExecute => .dtbFault
    | .unaligned => .alignment
    | .busError => .machineCheck) ∧
  (∀ r, mapITranslationFault r = mapTranslationFault r true ∧ mapDTranslationFault r = mapTranslationFault r false) ∧
  (∀ r i, mapTranslationFault r i = .none ↔ r = .success) ∧
  (∀ cls, isRecoverableFault cls = true ↔ cls ∈ [TrapClass.itbMiss, .dtbMiss, .itbFault, .dtbFault]) ∧
  (∀ cls, isTerminalFault cls = true ↔ cls ∈ [TrapClass.machineCheck, .doubleFault])

/-- `reportTranslationFault`: the class is handed back, and unless it is NONE its event is posted, with the code of the
outcome, the write flag cleared on a fetch, and the unaligned flag (R325, R92). -/
def Obligations.TranslationFaultIsReported : Prop :=
  ∀ (s : State) (c : Nat) (x : CpuState) (r : TranslationResult) (i : Bool) (va : Quad) (w : Bool),
    s.touchBank.cpu? c = some x →
    (r = .success → reportTranslationFault c r i va w s = .next (s.touchBank.emit [.trapClass .none])) ∧
    (r ≠ .success → reportTranslationFault c r i va w s =
      .next ((s.touchBank.setCpu c (postEvent s.params x
        ⟨.exception, mapTranslationFault r i, classVector s.params (mapTranslationFault r i), va,
          (TranslationResult.code r).setWidth 64, w && !i, i, decide (r = .unaligned)⟩)).emit
        [.trapClass (mapTranslationFault r i)]))

/-- The MM-status table, read at bits 2..0 of an input of any width (R310, R311, R312). -/
def Obligations.MmStatusIsDecoded : Prop :=
  ∀ (p : Params) (bits : Nat) (w : Bool), p.mmStat = mmStatDefault →
    (bits % 8 ≤ 2 → decodeMMStat p bits w = if w then .dtbMissWrite else .dtbMissRead) ∧
    (bits % 8 = 3 → decodeMMStat p bits w = if w then .acvWrite else .acvRead) ∧
    (bits % 8 = 4 → decodeMMStat p bits w = .faultOnRead) ∧
    (bits % 8 = 5 → decodeMMStat p bits w = .faultOnWrite) ∧
    (bits % 8 = 6 → decodeMMStat p bits w = .faultOnExecute) ∧
    (bits % 8 = 7 → decodeMMStat p bits w = .none)

/-- The arithmetic word, of ARITH_W bits: any nonzero value is ARITHMETIC and is posted with faultVA 0 and the word as info;
zero does nothing (R315, R316). A machine check is posted with the caller's word, of 64 bits (R423). -/
def Obligations.ArithmeticAndMachineCheckAreRaised : Prop :=
  ∀ (s : State) (c : Nat) (x : CpuState) (v info : Quad), s.touchBank.cpu? c = some x → v.toNat < 2 ^ s.params.arithW →
    (classifyArith s.params v = if v = 0 then .none else .arithmetic) ∧
    (v = 0 → reportArith c v s = .next s.touchBank) ∧
    (v ≠ 0 → reportArith c v s = .next (s.touchBank.setCpu c (postEvent s.params x
      ⟨.exception, .arithmetic, vectorOf s.params .arithmetic, 0, v, false, false, false⟩))) ∧
    raiseMachineCheck c info s = .next (s.touchBank.setCpu c (postEvent s.params x
      ⟨.exception, .machineCheck, vectorOf s.params .machineCheck, 0, info, false, false, false⟩))

/-- `captureFaultInfo`: the base fields as given, PAL mode, mode and ASN as they stand, the canonical fields derived, and
nothing written (R320, R321, R322, R324). -/
def Obligations.FaultInfoIsCaptured : Prop :=
  ∀ (s : State) (c : Nat) (x : CpuState) (base : FaultBase), s.touchBank.cpu? c = some x →
    ∃ m, captureFaultInfo c base s = .next (s.touchBank.emit [.faultInfo m]) ∧
      m.base = base ∧ m.palMode = x.palMode ∧ m.privMode = x.cm ∧ m.asn = x.pctx.extractLsb' 39 8 ∧
      (base.isExecute = true → m.canonicalAccessType = .execute ∧ m.canonicalTBDomain = .itb) ∧
      (base.isExecute = false → m.canonicalTBDomain = .dtb ∧
        m.canonicalAccessType = if base.isWrite then .write else .read) ∧
      (m.canonicalAccessSize = .b1 ↔ base.accessSize.toNat = 1) ∧ (m.canonicalAccessSize = .b2 ↔ base.accessSize.toNat = 2) ∧
      (m.canonicalAccessSize = .b4 ↔ base.accessSize.toNat = 4) ∧ (m.canonicalAccessSize = .b8 ↔ base.accessSize.toNat = 8)

/-! ### PalResult -/

/-- The seven setters: each sets its own bit or bits and no other, and changes no data field but its own (R343-R350); the
eight effects stand at R342's positions, and `hasEffect` reads those. -/
def Obligations.SettersSetTheirOwnBits : Prop :=
  ∀ (r : PalResult) (pc code : Quad) (n : Nat),
    ((r.tlbModified).sideEffects.getLsbD n = (decide (n = 0) || r.sideEffects.getLsbD n)) ∧
    ((r.iplChanged).sideEffects.getLsbD n = (decide (n = 1) || r.sideEffects.getLsbD n)) ∧
    ((r.memoryBarrier).sideEffects.getLsbD n = (decide (n = 2) || r.sideEffects.getLsbD n)) ∧
    ((r.drainWriteBuffers).sideEffects.getLsbD n = (decide (n = 3) || r.sideEffects.getLsbD n)) ∧
    ((r.requestPipelineFlush pc).sideEffects.getLsbD n = (decide (n = 4) || r.sideEffects.getLsbD n)) ∧
    ((r.halt code).sideEffects.getLsbD n = (decide (n = 5 ∨ n = 6) || r.sideEffects.getLsbD n)) ∧
    ((r.contextSwitch).sideEffects.getLsbD n = (decide (n = 7) || r.sideEffects.getLsbD n)) ∧
    (r.requestPipelineFlush pc).flushTarget = pc ∧ (r.halt code).haltCode = code ∧
    { r.requestPipelineFlush pc with sideEffects := r.sideEffects, flushTarget := r.flushTarget } = r ∧
    { r.halt code with sideEffects := r.sideEffects, haltCode := r.haltCode } = r ∧
    (∀ q ∈ [r.tlbModified, r.iplChanged, r.memoryBarrier, r.drainWriteBuffers, r.contextSwitch],
      { q with sideEffects := r.sideEffects } = r) ∧
    (∀ e ∈ [(PipelineEffect.tlbModified, 0), (.iplChanged, 1), (.memoryBarrier, 2), (.drainWriteBuffers, 3),
        (.pipelineFlush, 4), (.halt, 5), (.notifyHalt, 6), (.contextSwitch, 7)],
      e.1.bit = e.2 ∧ e.1.mask = 1#32 <<< e.2 ∧ hasEffect r.sideEffects e.1 = r.sideEffects.getLsbD e.2) ∧
    (∀ e, hasEffect (r.tlbModified).sideEffects e = (decide (e = .tlbModified) || hasEffect r.sideEffects e)) ∧
    (∀ e, hasEffect (r.iplChanged).sideEffects e = (decide (e = .iplChanged) || hasEffect r.sideEffects e)) ∧
    (∀ e, hasEffect (r.memoryBarrier).sideEffects e = (decide (e = .memoryBarrier) || hasEffect r.sideEffects e)) ∧
    (∀ e, hasEffect (r.drainWriteBuffers).sideEffects e = (decide (e = .drainWriteBuffers) || hasEffect r.sideEffects e)) ∧
    (∀ e, hasEffect (r.requestPipelineFlush pc).sideEffects e =
      (decide (e = .pipelineFlush) || hasEffect r.sideEffects e)) ∧
    (∀ e, hasEffect (r.halt code).sideEffects e = (decide (e = .halt ∨ e = .notifyHalt) || hasEffect r.sideEffects e)) ∧
    (∀ e, hasEffect (r.contextSwitch).sideEffects e = (decide (e = .contextSwitch) || hasEffect r.sideEffects e))

/-- Applying a PalResult writes the flagged deltas, PAL mode and the halt state, and nothing else of the block's state
(R354, R353; R351 steps 1, 4, 5). -/
def Obligations.PalResultDeltasAreApplied : Prop :=
  ∀ (s : State) (c : Nat) (x : CpuState) (r : PalResult) (order : List PipelineEffect), s.touchBank.cpu? c = some x →
    (x.halted = true → applyPalResult c r order s = .fault .cpuHalted) ∧
    (x.halted = false → ∃ (y : CpuState) (out : List Output),
      applyPalResult c r order s = .next ((s.touchBank.setCpu c y).emit out) ∧
      y.cm = (if r.psModified then r.newPS.extractLsb' 3 2 else x.cm) ∧
      y.ipl = (if r.iplModified then r.newIPL else x.ipl) ∧
      y.asn = (if r.asnModified then r.newASN else x.asn) ∧
      (∀ n, ¬ (39 ≤ n ∧ n ≤ 46) → y.pctx.getLsbD n = x.pctx.getLsbD n) ∧
      y.palMode = (if r.doesReturn then false else x.palMode) ∧
      y.halted = r.sideEffects.getLsbD 5 ∧
      y.haltCode = (if r.sideEffects.getLsbD 5 then r.haltCode else x.haltCode) ∧
      y = { x with cm := y.cm, ipl := y.ipl, pctx := y.pctx, palMode := y.palMode, halted := y.halted,
                   haltCode := y.haltCode })

/-- What applying a PalResult emits: first the pass-through of R355 and R356, then each set effect once, the halt effects
last, in either order, and a flush before a TLB invalidation; and every order R352 allows can be chosen. That HALT is emitted
as an action and that Deliver carries the PS delta are the model's reading (log 10, log 11), as are where the choice comes
from (log 9) and that a wider vector is cut to VEC_W bits (R63; log 19). -/
def Obligations.PipelineActionsComeInAnAllowedOrder : Prop :=
  ∀ (s : State) (c : Nat) (x : CpuState) (r : PalResult) (order : List PipelineEffect),
    s.touchBank.cpu? c = some x → x.halted = false →
    let v := r.excVector % 2 ^ s.params.vecW
    let allowed := fun l : List PipelineEffect =>
      l.Nodup ∧ (∀ e, e ∈ l ↔ r.sideEffects.getLsbD e.bit = true) ∧
      (∀ l1 e l2, l = l1 ++ e :: l2 → e = .halt ∨ e = .notifyHalt → ∀ e' ∈ l2, e' = .halt ∨ e' = .notifyHalt) ∧
      (∀ l1 l2, l = l1 ++ PipelineEffect.tlbModified :: l2 → .pipelineFlush ∈ l → .pipelineFlush ∈ l1)
    ∃ (t : State) (l : List PipelineEffect), applyPalResult c r order s = .next t ∧
      t.outputs = .deliver ⟨r.hasReturn, r.retValue, r.destReg, r.pcModified, r.newPC, r.faultPC, r.faultVA, r.psModified,
        r.newPS, r.raisesException, v⟩ :: l.map (fun e => .action e { r with excVector := v }) ∧
      allowed l ∧ (allowed order → l = order)

/-- A value whose flag is 0 has no meaning: two results that agree on the flags, on the flagged values and on the effects
leave the same state of every CPU (R64). -/
def Obligations.UnflaggedValuesAreNotRead : Prop :=
  ∀ (s t t' : State) (c : Nat) (r r' : PalResult) (order : List PipelineEffect),
    r.psModified = r'.psModified → (r.psModified = true → r.newPS = r'.newPS) →
    r.iplModified = r'.iplModified → (r.iplModified = true → r.newIPL = r'.newIPL) →
    r.asnModified = r'.asnModified → (r.asnModified = true → r.newASN = r'.newASN) →
    r.doesReturn = r'.doesReturn → r.sideEffects = r'.sideEffects →
    (r.sideEffects.getLsbD 5 = true → r.haltCode = r'.haltCode) →
    applyPalResult c r order s = .next t → applyPalResult c r' order s = .next t' → t.bank = t'.bank

/-! ### Inter-processor interrupts -/

/-- `sendIPI` undisturbed: the data first, then the request, then the interrupt bit, in the destination alone: the sender,
where it is another CPU, and every other CPU are as before (R450). That the three lines are three operations, held in `busy`,
is the model's form (log 13). -/
def Obligations.SendIpiPublishesThenRequests : Prop :=
  ∀ (s : State) (src dst : Nat) (data : Quad) (xs xd : CpuState),
    s.touchBank.cpu? src = some xs → s.touchBank.cpu? dst = some xd →
    ∃ (s1 s2 s3 : State) (y1 y2 y3 : CpuState),
      sendIPI src dst data s = .next s1 ∧ continueIPI src s1 = .next s2 ∧ continueIPI src s2 = .next s3 ∧
      s1.cpu? dst = some y1 ∧ s2.cpu? dst = some y2 ∧ s3.cpu? dst = some y3 ∧
      y1.ipiData = data ∧ y1.ipiRequest = xd.ipiRequest ∧ y1.irqPending = xd.irqPending ∧
      y2.ipiData = data ∧ y2.ipiRequest = true ∧ y2.irqPending = xd.irqPending ∧
      y3 = { xd with ipiData := data, ipiRequest := true, irqPending := xd.irqPending ||| 1#32 <<< s.params.ipiLevel.toNat,
                     busy := if dst = src then none else xd.busy } ∧
      (src ≠ dst → s3.cpu? src = some { xs with busy := none }) ∧
      (∀ d, d ≠ src → d ≠ dst → s3.cpu? d = s.touchBank.cpu? d)

/-- `ackIPI` undisturbed: the request is taken, the interrupt bit cleared, and the data handed back if there was a request
(R451; the three operations are the model's form, log 13). -/
def Obligations.AckIpiTakesTheRequest : Prop :=
  ∀ (s : State) (c : Nat) (x : CpuState), s.touchBank.cpu? c = some x →
    ∃ (s1 s2 s3 : State) (seen : List Nat),
      ackIPI c s = .next s1 ∧ continueIPI c s1 = .next s2 ∧ continueIPI c s2 = .next s3 ∧
      s3.outputs = [.ipiAck x.ipiRequest (if x.ipiRequest then x.ipiData else 0)] ∧
      s3.cpu? c = some { x with ipiRequest := false, irqPending := x.irqPending &&& ~~~(1#32 <<< s.params.ipiLevel.toNat),
                                busy := none, ipiSeen := seen } ∧
      (∀ d, d ≠ c → s3.cpu? d = s.touchBank.cpu? d)

/-- A read of IPI_DATA by a CPU an acquire of which observed IPI_REQUEST = 1 returns the data; any other such read returns a
value nothing constrains. A plain read of IPI_REQUEST is such an acquire, and so are the owner's queries, its acknowledge, and
its consumption of an event where the arbitration gets as far as IPI_REQUEST (R430 step 4); no acquire undoes an earlier one
(R96, R99, R432; the record of who has observed it is the model's, log 12). -/
def Obligations.RacingIpiReadIsFree : Prop :=
  ∀ (s : State) (reader c : Nat) (x : CpuState), s.touchBank.cpu? c = some x →
    (reader ∈ x.ipiSeen → readF reader c .ipiData s = .next (s.touchBank.emit [.value x.ipiData])) ∧
    (reader ∉ x.ipiSeen → readF reader c .ipiData s =
      .next ({ s.touchBank with draws := s.draws + 1 }.emit [.value (Config.freeWord s.draws)])) ∧
    (∃ y, readF reader c .ipiRequest s =
        .next ((s.touchBank.setCpu c y).emit [.value (if x.ipiRequest then 1 else 0)]) ∧
      (reader ∈ y.ipiSeen ↔ x.ipiRequest = true ∨ reader ∈ x.ipiSeen) ∧
      (∀ q, q ≠ reader → (q ∈ y.ipiSeen ↔ q ∈ x.ipiSeen)) ∧ y = { x with ipiSeen := y.ipiSeen }) ∧
    (∀ op ∈ [Op.hasPendingEvent c, .eventPendingState c, .ackIPI c],
      ∃ t y, perform (.cpu c) op s = .next t ∧ t.cpu? c = some y ∧
        ∀ q, q ∈ y.ipiSeen ↔ (q = c ∧ x.ipiRequest = true) ∨ q ∈ x.ipiSeen) ∧
    (x.halted = false → ∃ t y, perform (.cpu c) (.consumeEvent c) s = .next t ∧ t.cpu? c = some y ∧
      ∀ q, q ∈ y.ipiSeen ↔
        (q = c ∧ x.ipiRequest = true ∧ x.slot.kind ≠ .exception ∧ x.palMode = false) ∨ q ∈ x.ipiSeen)

/-! ### Register-field access -/

/-- Setters mask what they store and getters what they return, with R46's masks, SISR with SIRR's (R36) and every other field
with its whole width (R40, R41, R42, R48); a write changes its own field only (SIRR and its view SISR are one), and a write to
SISR is ignored (R46, R36). That palMode is among the fields written is log 17
(R76, R438); IPI_DATA's getter has its own statement (R99). -/
def Obligations.FieldsAreMasked : Prop :=
  ∀ (s : State) (c : Nat) (x : CpuState) (f : Field) (v : Quad), s.touchBank.cpu? c = some x →
    let p := s.params
    (∀ e ∈ [(Field.irqPending, x.irqPending.setWidth 64), (.ipl, x.ipl.setWidth 64), (.cm, x.cm.setWidth 64),
        (.sirr, x.sirr.setWidth 64), (.sisr, x.sirr.setWidth 64), (.pctx, x.pctx), (.astState, x.astState.setWidth 64),
        (.ier, x.ier.setWidth 64), (.palMode, if x.palMode then 1 else 0), (.ipiRequest, if x.ipiRequest then 1 else 0),
        (.palBase, x.palBase), (.halted, if x.halted then 1 else 0), (.haltCode, x.haltCode)],
      ∃ t, readF c c e.1 s = .next t ∧ t.outputs = [.value (e.2 &&& fieldMask p e.1)] ∧
        (∀ g, fieldBits x e.1 = e.2 ∧ (t.cpu? c).map (fieldBits · g) = some (fieldBits x g))) ∧
    (f ∈ [Field.ipl, .cm, .sirr, .pctx, .ier, .palMode, .palBase] → ∃ y, writeF c f v s = .next (s.touchBank.setCpu c y) ∧
      fieldBits y f = v &&& fieldMask p f ∧ fieldBits y .sisr = fieldBits y .sirr ∧ y.slot = x.slot ∧
      (∀ g, g ≠ f → ¬ (f = .sirr ∧ g = .sisr) → fieldBits y g = fieldBits x g)) ∧
    writeF c .sisr v s = .next s.touchBank ∧
    (fieldMask p .irqPending = 0xFFFFFFFF#64 ∧ fieldMask p .ipl = 0x1F#64 ∧ fieldMask p .cm = 0x3#64 ∧
      fieldMask p .sirr = 0xFFFE#64 ∧ fieldMask p .pctx = 0x00007F8000001FE6#64 ∧ fieldMask p .astState = 0xFFFF#64 ∧
      fieldMask p .ier = 0xFFFFFFFF#64 ∧ fieldMask p .palBase = p.palBaseMask ∧ fieldMask p .sisr = 0xFFFE#64 ∧
      fieldMask p .palMode = 0x1#64 ∧ fieldMask p .halted = 0x1#64 ∧ fieldMask p .ipiRequest = 0x1#64 ∧
      fieldMask p .ipiData = 0xFFFFFFFFFFFFFFFF#64 ∧ fieldMask p .haltCode = 0xFFFFFFFFFFFFFFFF#64)

/-- The atomic updates change the bits they name and no other (R76, R98). -/
def Obligations.AtomicUpdatesKeepOtherBits : Prop :=
  ∀ (s : State) (c : Nat) (x : CpuState) (n : BitVec 5) (a b : BitVec 16), s.touchBank.cpu? c = some x →
    (∃ q, irqSet c n s = .next (s.touchBank.setCpu c { x with irqPending := q }) ∧
      ∀ m < 32, q.getLsbD m = (decide (m = n.toNat) || x.irqPending.getLsbD m)) ∧
    (∃ q, irqClear c n s = .next (s.touchBank.setCpu c { x with irqPending := q }) ∧
      ∀ m < 32, q.getLsbD m = (!decide (m = n.toNat) && x.irqPending.getLsbD m)) ∧
    (∃ q, astUpdate c a b s = .next (s.touchBank.setCpu c { x with astState := q }) ∧
      ∀ m < 16, q.getLsbD m = ((x.astState.getLsbD m || a.getLsbD m) && !b.getLsbD m))

/-- A write of a field by an agent that is not its owner is refused, as is a read of an owner-only field by another CPU, and
a plain write of an atomic field by anyone (R47, R76). The names of the refusals and their order are the model's (log 14,
log 17). -/
def Obligations.OwnershipIsEnforced : Prop :=
  ∀ (s : State) (a : Agent) (c : Nat) (f : Field) (v : Quad),
    (a ≠ .cpu c → serve ⟨a, .writeF c f v⟩ s = .refused .notPermitted) ∧
    (a ≠ .cpu c → f ∉ [Field.irqPending, .ipiRequest, .ipiData, .astState] → serve ⟨a, .readF c f⟩ s = .refused .notPermitted) ∧
    (∀ x, s.touchBank.cpu? c = some x → f ∈ [Field.irqPending, .ipiRequest, .ipiData, .astState] →
      writeF c f v s = .refused .fieldNotWritable)

/-! ### Reset and boot -/

/-- `reset(c)`: every field of R500's table, nothing else touched, and nothing pending afterwards (R500). -/
def Obligations.ResetOfOneCpu : Prop :=
  ∀ (s : State) (c : Nat) (x : CpuState), s.touchBank.cpu? c = some x →
    ∃ y, resetCpu c s = .next (s.touchBank.setCpu c y) ∧
      y.irqPending = 0 ∧ y.ipl = s.params.resetIpl ∧ y.cm = 0 ∧ y.sirr = 0 ∧ y.pctx = 0 ∧ y.astState = 0 ∧
      y.ier = s.params.ierReset ∧ y.palMode = true ∧ y.ipiRequest = false ∧ y.ipiData = 0 ∧
      y.palBase = s.params.palBaseReset &&& s.params.palBaseMask ∧ y.slot = PendingEvent.empty ∧ y.halted = false ∧
      y.haltCode = 0 ∧ hasPendingEvent y = false ∧ arbitrate s.params y = PendingEvent.empty

/-- The boot steps and their end. A global reset opens configuration, and reset release seals the registry with every CPU of
the bank reset (R501, R503 step 3). While unsealed, building the bank makes NUM_CPUS CPUs (R53, R503 step 1) and the active
platform is written (R51, R503 step 2). An unbuilt bank is built by the first access, every slot NONE (R53). After a shutdown
no operation names a CPU, after a de-registration none names that CPU (R30, R504). The model's own readings: that a global
reset writes nothing but the seal, that an unbuilt bank stays so at release, that a CPU is built as `reset(c)` leaves it, and
that the two last are operations (log 16); that a release while already sealed is served too (log 32); which access builds the bank (log 15); that building and
the platform's write are refused after the seal (log 8). -/
def Obligations.ResetReleaseSealsAndResets : Prop :=
  ∀ s : State,
    globalReset s = .next { s with isSealed := false } ∧
    (∃ t, releaseReset s = .next t ∧ t.isSealed = true ∧ t.registry = s.registry ∧ t.activePlatform = s.activePlatform ∧
      (s.bank = none → t.bank = none) ∧ ∀ c, t.cpu? c = (s.cpu? c).map (fun _ => CpuState.reset s.params)) ∧
    (s.isSealed = true → initBank s = .refused .registrySealed ∧
      ∀ plat, setActivePlatform plat s = .refused .registrySealed) ∧
    (s.isSealed = false → (∀ plat, setActivePlatform plat s = .next { s with activePlatform := plat }) ∧
      ∃ t, initBank s = .next t ∧ t = { s with bank := t.bank } ∧
        ∀ c, t.touchBank.cpu? c = if c < s.params.numCpus then some (CpuState.reset s.params) else none) ∧
    (∃ t, shutdownBank s = .next t ∧ t = { s with bank := t.bank } ∧ ∀ c f, withCpu t c f = .refused .cpuOutOfRange) ∧
    (∀ c x, s.touchBank.cpu? c = some x → ∃ t, deregisterCpu c s = .next t ∧ t = { s with bank := t.bank } ∧
      (∀ f, withCpu t c f = .refused .cpuOutOfRange) ∧ ∀ d, d ≠ c → t.touchBank.cpu? d = s.touchBank.cpu? d) ∧
    (s.bank = none → ∀ c, (c < s.params.defaultCpuCount → ∃ x, s.touchBank.cpu? c = some x ∧ x.slot = PendingEvent.empty) ∧
      (s.params.defaultCpuCount ≤ c → s.touchBank.cpu? c = none))

/-- The state right after reset meets the block's invariant. The registry's contents in it are the model's choice (log 1). -/
def Obligations.ResetStateIsWellFormed : Prop := State.reset.wf = true ∧ Params.default.wf = true

/-! ### Whole-machine rules -/

/-- Every step keeps the invariant: one grain per folded key (R50, R141), each slot NONE or an exception whose vector has
VEC_W bits (R441, R60), SIRR bit 0 clear (R35), no bit outside the masks of PCTX and PAL_BASE (R37, R43, R46). -/
def Obligations.EveryStepKeepsTheInvariant : Prop := ∀ s t : State, s.wf = true → step s = .next t → t.wf = true

/-- A halted CPU stays halted, with its code, whatever is asked of the block, until it is reset or de-registered or the bank
is built anew or shut down (R48, R353, R460; the operations that build and unmake the bank are the model's, log 16). -/
def Obligations.OnlyResetLeavesHalt : Prop :=
  ∀ (s t : State) (c : Nat) (x : CpuState), s.cpu? c = some x → x.halted = true → step s = .next t →
    (∃ y, t.cpu? c = some y ∧ y.halted = true ∧ y.haltCode = x.haltCode) ∨
    (∃ r rest, s.requests = r :: rest ∧
      (r.op = .resetCpu c ∨ r.op = .releaseReset ∨ r.op = .initBank ∨ r.op = .shutdownBank ∨ r.op = .deregisterCpu c))

/-- Another CPU's agent can change nothing of a CPU but the atomic fields (R4, R47, R452). `ipiSeen` is the model's record of
who has observed IPI_REQUEST (log 12). -/
def Obligations.OtherCpusReachOnlyAtomicFields : Prop :=
  ∀ (s t : State) (a c : Nat) (op : Op) (rest : List Request) (x : CpuState),
    s.requests = ⟨.cpu a, op⟩ :: rest → a ≠ c → s.cpu? c = some x → step s = .next t →
    ∃ y, t.cpu? c = some y ∧
      y = { x with irqPending := y.irqPending, ipiRequest := y.ipiRequest, ipiData := y.ipiData, astState := y.astState,
                   ipiSeen := y.ipiSeen }

/-- The mode changes only by a PS delta, a PAL write of CM, or a reset; PAL mode is entered only by consuming an event, a PAL
write (R438) or a reset, and left only by a PalResult that returns (R436) or a PAL write. R445 names no PAL write among the
ways PAL mode is left: that a write of palMode through R76 can clear it too is the model's reading (log 17), and that the
bank's rebuilding counts as a reset is log 16 (R445, R40, R76). -/
def Obligations.ModeChangesOnlyByItsRules : Prop :=
  ∀ (s t : State) (r : Request) (rest : List Request) (c : Nat) (x y : CpuState),
    s.requests = r :: rest → s.cpu? c = some x → step s = .next t → t.cpu? c = some y →
    let isReset := r.op = .resetCpu c ∨ r.op = .releaseReset ∨ r.op = .initBank
    (y.cm ≠ x.cm →
      (∃ pr order, r.op = .applyPalResult c pr order ∧ pr.psModified = true) ∨ (∃ v, r.op = .writeF c .cm v) ∨ isReset) ∧
    (x.palMode = false → y.palMode = true → r.op = .consumeEvent c ∨ (∃ v, r.op = .writeF c .palMode v) ∨ isReset) ∧
    (x.palMode = true → y.palMode = false →
      (∃ pr order, r.op = .applyPalResult c pr order ∧ pr.doesReturn = true) ∨ (∃ v, r.op = .writeF c .palMode v))

/-- Interrupt sources are level-held: a pending bit is cleared only by whoever clears that source, never by delivery (R422,
R433; the bank's rebuilding counts as a reset, log 16). -/
def Obligations.SourcesStayPendingUntilCleared : Prop :=
  ∀ (s t : State) (r : Request) (rest : List Request) (c : Nat) (x y : CpuState) (n : Nat),
    s.requests = r :: rest → s.cpu? c = some x → step s = .next t → t.cpu? c = some y →
    let isReset := r.op = .resetCpu c ∨ r.op = .releaseReset ∨ r.op = .initBank
    (x.irqPending.getLsbD n = true → y.irqPending.getLsbD n = false →
      (∃ k : BitVec 5, r.op = .irqClear c k ∧ n = k.toNat) ∨ (r.op = .continueIPI c ∧ n = s.params.ipiLevel.toNat) ∨ isReset) ∧
    (x.sirr.getLsbD n = true → y.sirr.getLsbD n = false → (∃ v, r.op = .writeF c .sirr v) ∨ isReset) ∧
    (x.astsr.getLsbD n = true → y.astsr.getLsbD n = false → (∃ v, r.op = .writeF c .pctx v) ∨ isReset) ∧
    (x.ipiRequest = true → y.ipiRequest = false → r.op = .ackIPI c ∨ isReset)

end
end

