-- ==== Sys2Proof/Laws/Arbiter.lean ====
section
/-! SUPPORT. The arbiter: the highest level, the deliverable levels in the words of R420, and the four modes. -/

namespace Sys2Proof.Laws

open Sys2Proof.Machine

theorem highestFrom_some {f : Nat → Bool} {n k : Nat} :
    highestFrom f n = some k ↔ 1 ≤ k ∧ k ≤ n ∧ f k = true ∧ ∀ m, 1 ≤ m → m ≤ n → f m = true → m ≤ k := by
  induction n with
  | zero => simp [highestFrom]; omega
  | succ n ih =>
    simp only [highestFrom]
    split
    · rename_i h
      constructor
      · intro e; cases e; exact ⟨by omega, by omega, h, fun m _ hm _ => hm⟩
      · rintro ⟨h1, h2, h3, h4⟩
        have := h4 (n + 1) (by omega) (by omega) h
        have : k = n + 1 := by omega
        rw [this]
    · rename_i h
      rw [ih]
      constructor
      · rintro ⟨h1, h2, h3, h4⟩
        refine ⟨h1, by omega, h3, fun m hm hm' hf => h4 m hm ?_ hf⟩
        rcases Nat.lt_or_ge n m with hlt | hge
        · have : m = n + 1 := by omega
          subst this; exact absurd hf h
        · exact hge
      · rintro ⟨h1, h2, h3, h4⟩
        refine ⟨h1, ?_, h3, fun m hm hm' hf => h4 m hm (by omega) hf⟩
        rcases Nat.lt_or_ge n k with hlt | hge
        · have : k = n + 1 := by omega
          subst this; exact absurd h3 h
        · exact hge

theorem highestFrom_none {f : Nat → Bool} {n : Nat} : highestFrom f n = none ↔ ∀ m, 1 ≤ m → m ≤ n → f m = false := by
  induction n with
  | zero => simp [highestFrom]; omega
  | succ n ih =>
    simp only [highestFrom]
    split
    · rename_i h
      constructor
      · intro e; cases e
      · intro hm; rw [hm (n + 1) (by omega) (by omega)] at h; cases h
    · rename_i h
      rw [ih]
      constructor
      · intro hm m h1 h2
        rcases Nat.lt_or_ge n m with hlt | hge
        · have : m = n + 1 := by omega
          subst this; simpa using h
        · exact hm m h1 hge
      · intro hm m h1 h2; exact hm m h1 (by omega)

/-- The pending set of R420, bit by bit. -/
theorem pendingLevels_bit (p : Params) (x : CpuState) {n : Nat} (hn : n < 32) :
    (pendingLevels p x).getLsbD n =
      ((x.irqPending.getLsbD n || x.sirr.getLsbD n || (x.ipiRequest && decide (n = p.ipiLevel.toNat))) && x.ier.getLsbD n) := by
  have h : p.ipiLevel.toNat < 32 := p.ipiLevel.isLt
  unfold pendingLevels
  simp only [BitVec.getLsbD_and, BitVec.getLsbD_or, BitVec.getLsbD_setWidth, hn, decide_true, Bool.true_and]
  congr 2
  cases x.ipiRequest with
  | false => simp
  | true =>
    simp only [if_true, Bool.true_and, BitVec.getLsbD_shiftLeft, hn, decide_true]
    by_cases e : n = p.ipiLevel.toNat
    · simp [e]
    · rcases Nat.lt_or_ge n p.ipiLevel.toNat with hlt | hge
      · simp [e, hlt]
      · have : n - p.ipiLevel.toNat ≠ 0 := by omega
        simp [e, this, BitVec.getLsbD_one]

/-- The deliverable levels in R420's words. -/
theorem deliverable_iff (p : Params) (x : CpuState) (n : Nat) :
    (1 ≤ n ∧ n ≤ 31 ∧ deliverable p x n = true) ↔ Deliverable p x n := by
  constructor
  · rintro ⟨h1, h2, h⟩
    simp only [deliverable, Bool.and_eq_true, decide_eq_true_eq] at h
    obtain ⟨h, hi⟩ := h
    rw [pendingLevels_bit p x (by omega)] at h
    simp only [Bool.and_eq_true, Bool.or_eq_true, decide_eq_true_eq] at h
    exact ⟨h1, h2, h.2, hi, by rcases h.1 with (h | h) | h <;> simp [h]⟩
  · rintro ⟨h1, h2, he, hi, h⟩
    refine ⟨h1, h2, ?_⟩
    simp only [deliverable, Bool.and_eq_true, decide_eq_true_eq]
    refine ⟨?_, hi⟩
    rw [pendingLevels_bit p x (by omega)]
    simp only [Bool.and_eq_true, Bool.or_eq_true, decide_eq_true_eq]
    exact ⟨by rcases h with h | h | h <;> simp [h], he⟩

end Sys2Proof.Laws
end

