-- ==== Sys2Proof/Laws/Bits.lean ====
section
/-! SUPPORT. Cutting words into fields and putting them together again: the bit-level lemmas the decoder's laws rest on. -/

namespace Sys2Proof.Laws

theorem extract_append_hi {v w : Nat} (a : BitVec v) (b : BitVec w) : (a ++ b).extractLsb' w v = a := by
  apply BitVec.eq_of_getLsbD_eq; intro k hk
  simp [BitVec.getLsbD_append, hk]

theorem extract_append_lo {v w : Nat} (a : BitVec v) (b : BitVec w) : (a ++ b).extractLsb' 0 w = b := by
  apply BitVec.eq_of_getLsbD_eq; intro k hk
  simp [BitVec.getLsbD_append, hk]

theorem extract_append_mid {u v w : Nat} (a : BitVec u) (b : BitVec v) (c : BitVec w) :
    (a ++ b ++ c).extractLsb' w v = b := by
  apply BitVec.eq_of_getLsbD_eq; intro k hk
  simp [BitVec.getLsbD_append, hk]

theorem extract_append_top {u v w : Nat} (a : BitVec u) (b : BitVec v) (c : BitVec w) :
    (a ++ b ++ c).extractLsb' (w + v) u = a := by
  apply BitVec.eq_of_getLsbD_eq; intro k hk
  have h : ¬ w + v + k < w := by omega
  have h' : ¬ w + v + k - w < v := by omega
  have h'' : w + v + k - w - v = k := by omega
  simp [BitVec.getLsbD_append, hk, h, h', h'']

/-- A field that lies in the low part of an append is that part's field. -/
theorem extract_append_of_le {v w lo len : Nat} (a : BitVec v) (b : BitVec w) (h : lo + len ≤ w) :
    (a ++ b).extractLsb' lo len = b.extractLsb' lo len := BitVec.extractLsb'_append_eq_of_add_le h

/-- A bit vector is its high part and its low part. -/
theorem append_of_extracts {a b : Nat} (w : BitVec (a + b)) : w.extractLsb' b a ++ w.extractLsb' 0 b = w := by
  apply BitVec.eq_of_getLsbD_eq; intro k hk
  rw [BitVec.getLsbD_append]
  by_cases h : k < b
  · simp [h]
  · have h' : k - b < a := by omega
    have h'' : b + (k - b) = k := by omega
    simp [h, h', h'']

/-- A word is its opcode and its other 26 bits. -/
theorem opcode_append_rest (w : Word) : opcodeOf w ++ restOf w = w := append_of_extracts (a := 6) (b := 26) w

theorem opcodeOf_append (op : Opcode) (r : BitVec 26) : opcodeOf (op ++ r) = op := extract_append_hi op r

theorem restOf_append (op : Opcode) (r : BitVec 26) : restOf (op ++ r) = r := extract_append_lo op r

/-- A slice of a slice is a slice. -/
theorem extract_extract {n a b lo len : Nat} (w : BitVec n) (h : lo + len ≤ b) :
    (w.extractLsb' a b).extractLsb' lo len = w.extractLsb' (a + lo) len := by
  apply BitVec.eq_of_getLsbD_eq; intro k hk
  have h' : lo + k < b := by omega
  simp [hk, h', Nat.add_assoc]

/-- A bit vector is its three slices. -/
theorem append3_of_extracts {a b c : Nat} (r : BitVec (a + b + c)) :
    r.extractLsb' (c + b) a ++ r.extractLsb' c b ++ r.extractLsb' 0 c = r := by
  apply BitVec.eq_of_getLsbD_eq; intro k hk
  simp only [BitVec.getLsbD_append, BitVec.getLsbD_extractLsb']
  by_cases h1 : k < c
  · simp [h1]
  · by_cases h2 : k - c < b
    · have h : c + (k - c) = k := by omega
      simp [h1, h2, h]
    · have h : c + b + (k - c - b) = k := by omega
      have h' : k - c - b < a := by omega
      simp [h1, h2, h, h']

/-- The four bytes of a word, the highest first, are the word (R91). -/
theorem bytes_append (w : Word) :
    w.extractLsb' 24 8 ++ w.extractLsb' 16 8 ++ w.extractLsb' 8 8 ++ w.extractLsb' 0 8 = w := by
  have h1 := append_of_extracts (a := 8) (b := 8) (w.extractLsb' 16 16)
  have h2 := append_of_extracts (a := 16) (b := 8) (w.extractLsb' 8 24)
  have h3 := append_of_extracts (a := 24) (b := 8) w
  rw [extract_extract _ (by omega), extract_extract _ (by omega)] at h1 h2
  have h3' : w.extractLsb' 8 24 ++ w.extractLsb' 0 8 = w := h3
  have h1' : w.extractLsb' 24 8 ++ w.extractLsb' 16 8 = w.extractLsb' 16 16 := h1
  have h2' : w.extractLsb' 16 16 ++ w.extractLsb' 8 8 = w.extractLsb' 8 24 := h2
  exact (congrArg (fun v : BitVec 16 => v ++ w.extractLsb' 8 8 ++ w.extractLsb' 0 8) h1').trans
    ((congrArg (fun v : BitVec 24 => v ++ w.extractLsb' 0 8) h2').trans h3')

end Sys2Proof.Laws
end

