-- ==== Sys2Proof/Laws/Cpu.lean ====
section
/-! SUPPORT. What every shared update of a CPU's event state leaves unchanged, and the value it gives each field it
writes, one lemma per field. -/

namespace Sys2Proof.Laws

open Sys2Proof.Machine

section
variable (p : Params) (x : CpuState) (e : PendingEvent) (r : PalResult)

/-! ### postEvent and raiseTrap -/

@[simp] theorem postEvent_ipl : (postEvent p x e).ipl = x.ipl := by unfold postEvent; (repeat' split) <;> rfl
@[simp] theorem postEvent_cm : (postEvent p x e).cm = x.cm := by unfold postEvent; (repeat' split) <;> rfl
@[simp] theorem postEvent_sirr : (postEvent p x e).sirr = x.sirr := by unfold postEvent; (repeat' split) <;> rfl
@[simp] theorem postEvent_astState :
    (postEvent p x e).astState = x.astState := by unfold postEvent; (repeat' split) <;> rfl
@[simp] theorem postEvent_ier : (postEvent p x e).ier = x.ier := by unfold postEvent; (repeat' split) <;> rfl
@[simp] theorem postEvent_palMode :
    (postEvent p x e).palMode = x.palMode := by unfold postEvent; (repeat' split) <;> rfl
@[simp] theorem postEvent_ipiRequest :
    (postEvent p x e).ipiRequest = x.ipiRequest := by unfold postEvent; (repeat' split) <;> rfl
@[simp] theorem postEvent_ipiData :
    (postEvent p x e).ipiData = x.ipiData := by unfold postEvent; (repeat' split) <;> rfl
@[simp] theorem postEvent_palBase :
    (postEvent p x e).palBase = x.palBase := by unfold postEvent; (repeat' split) <;> rfl
@[simp] theorem postEvent_halted : (postEvent p x e).halted = x.halted := by unfold postEvent; (repeat' split) <;> rfl
@[simp] theorem postEvent_haltCode :
    (postEvent p x e).haltCode = x.haltCode := by unfold postEvent; (repeat' split) <;> rfl
@[simp] theorem postEvent_busy : (postEvent p x e).busy = x.busy := by unfold postEvent; (repeat' split) <;> rfl
@[simp] theorem postEvent_ipiSeen :
    (postEvent p x e).ipiSeen = x.ipiSeen := by unfold postEvent; (repeat' split) <;> rfl
@[simp] theorem raiseTrap_irqPending (c : TrapClass) (va info : Quad) (f : EventFlags) :
    (raiseTrap p x c va info f).irqPending = x.irqPending := by
  unfold raiseTrap postEvent exceptionEvent; (repeat' split) <;> simp_all
@[simp] theorem raiseTrap_ipl (c : TrapClass) (va info : Quad) (f : EventFlags) :
    (raiseTrap p x c va info f).ipl = x.ipl := by
  unfold raiseTrap postEvent exceptionEvent; (repeat' split) <;> simp_all
@[simp] theorem raiseTrap_cm (c : TrapClass) (va info : Quad) (f : EventFlags) :
    (raiseTrap p x c va info f).cm = x.cm := by
  unfold raiseTrap postEvent exceptionEvent; (repeat' split) <;> simp_all
@[simp] theorem raiseTrap_sirr (c : TrapClass) (va info : Quad) (f : EventFlags) :
    (raiseTrap p x c va info f).sirr = x.sirr := by
  unfold raiseTrap postEvent exceptionEvent; (repeat' split) <;> simp_all
@[simp] theorem raiseTrap_pctx (c : TrapClass) (va info : Quad) (f : EventFlags) :
    (raiseTrap p x c va info f).pctx = x.pctx := by
  unfold raiseTrap postEvent exceptionEvent; (repeat' split) <;> simp_all
@[simp] theorem raiseTrap_astState (c : TrapClass) (va info : Quad) (f : EventFlags) :
    (raiseTrap p x c va info f).astState = x.astState := by
  unfold raiseTrap postEvent exceptionEvent; (repeat' split) <;> simp_all
@[simp] theorem raiseTrap_ier (c : TrapClass) (va info : Quad) (f : EventFlags) :
    (raiseTrap p x c va info f).ier = x.ier := by
  unfold raiseTrap postEvent exceptionEvent; (repeat' split) <;> simp_all
@[simp] theorem raiseTrap_palMode (c : TrapClass) (va info : Quad) (f : EventFlags) :
    (raiseTrap p x c va info f).palMode = x.palMode := by
  unfold raiseTrap postEvent exceptionEvent; (repeat' split) <;> simp_all
@[simp] theorem raiseTrap_ipiRequest (c : TrapClass) (va info : Quad) (f : EventFlags) :
    (raiseTrap p x c va info f).ipiRequest = x.ipiRequest := by
  unfold raiseTrap postEvent exceptionEvent; (repeat' split) <;> simp_all
@[simp] theorem raiseTrap_ipiData (c : TrapClass) (va info : Quad) (f : EventFlags) :
    (raiseTrap p x c va info f).ipiData = x.ipiData := by
  unfold raiseTrap postEvent exceptionEvent; (repeat' split) <;> simp_all
@[simp] theorem raiseTrap_palBase (c : TrapClass) (va info : Quad) (f : EventFlags) :
    (raiseTrap p x c va info f).palBase = x.palBase := by
  unfold raiseTrap postEvent exceptionEvent; (repeat' split) <;> simp_all
@[simp] theorem raiseTrap_halted (c : TrapClass) (va info : Quad) (f : EventFlags) :
    (raiseTrap p x c va info f).halted = x.halted := by
  unfold raiseTrap postEvent exceptionEvent; (repeat' split) <;> simp_all
@[simp] theorem raiseTrap_haltCode (c : TrapClass) (va info : Quad) (f : EventFlags) :
    (raiseTrap p x c va info f).haltCode = x.haltCode := by
  unfold raiseTrap postEvent exceptionEvent; (repeat' split) <;> simp_all
@[simp] theorem raiseTrap_busy (c : TrapClass) (va info : Quad) (f : EventFlags) :
    (raiseTrap p x c va info f).busy = x.busy := by
  unfold raiseTrap postEvent exceptionEvent; (repeat' split) <;> simp_all
@[simp] theorem raiseTrap_ipiSeen (c : TrapClass) (va info : Quad) (f : EventFlags) :
    (raiseTrap p x c va info f).ipiSeen = x.ipiSeen := by
  unfold raiseTrap postEvent exceptionEvent; (repeat' split) <;> simp_all

/-- Raising a trap writes the slot and nothing else (R10, R440). -/
theorem raiseTrap_eq (c : TrapClass) (va info : Quad) (f : EventFlags) :
    raiseTrap p x c va info f = { x with slot := (raiseTrap p x c va info f).slot } := by
  unfold raiseTrap postEvent exceptionEvent; (repeat' split) <;> simp_all

/-- A vector id has VEC_W bits, and cutting one that has changes nothing (R60). -/
theorem vectorId_lt (v : Nat) : vectorId p v < 2 ^ p.vecW := Nat.mod_lt _ (Nat.two_pow_pos _)

@[simp] theorem vectorId_vectorId (v : Nat) : vectorId p (vectorId p v) = vectorId p v := Nat.mod_mod _ _

@[simp] theorem vectorId_vectorOf (k : VectorKey) : vectorId p (vectorOf p k) = vectorOf p k := vectorId_vectorId p _

@[simp] theorem vectorId_classVector (c : TrapClass) : vectorId p (classVector p c) = classVector p c := by
  unfold classVector; split
  · simp
  · simp [vectorId]

/-- The events the block raises have vectors of VEC_W bits already (R435). -/
@[simp] theorem exceptionEvent_cut (c : TrapClass) (va info : Quad) (f : EventFlags) :
    (exceptionEvent p c va info f).cut p = exceptionEvent p c va info f := by simp [PendingEvent.cut, exceptionEvent]

@[simp] theorem cut_kind : (e.cut p).kind = e.kind := rfl
@[simp] theorem cut_cls : (e.cut p).cls = e.cls := rfl
@[simp] theorem cut_vector : (e.cut p).vector = vectorId p e.vector := rfl
@[simp] theorem cut_faultVA : (e.cut p).faultVA = e.faultVA := rfl
@[simp] theorem cut_info : (e.cut p).info = e.info := rfl
@[simp] theorem cut_isWrite : (e.cut p).isWrite = e.isWrite := rfl
@[simp] theorem cut_isIFetch : (e.cut p).isIFetch = e.isIFetch := rfl
@[simp] theorem cut_isUnaligned : (e.cut p).isUnaligned = e.isUnaligned := rfl

/-! ### acquireIpi -/

@[simp] theorem acquireIpi_irqPending (q : Nat) : (x.acquireIpi q).irqPending = x.irqPending := rfl
@[simp] theorem acquireIpi_ipl (q : Nat) : (x.acquireIpi q).ipl = x.ipl := rfl
@[simp] theorem acquireIpi_cm (q : Nat) : (x.acquireIpi q).cm = x.cm := rfl
@[simp] theorem acquireIpi_sirr (q : Nat) : (x.acquireIpi q).sirr = x.sirr := rfl
@[simp] theorem acquireIpi_pctx (q : Nat) : (x.acquireIpi q).pctx = x.pctx := rfl
@[simp] theorem acquireIpi_astState (q : Nat) : (x.acquireIpi q).astState = x.astState := rfl
@[simp] theorem acquireIpi_ier (q : Nat) : (x.acquireIpi q).ier = x.ier := rfl
@[simp] theorem acquireIpi_palMode (q : Nat) : (x.acquireIpi q).palMode = x.palMode := rfl
@[simp] theorem acquireIpi_ipiRequest (q : Nat) : (x.acquireIpi q).ipiRequest = x.ipiRequest := rfl
@[simp] theorem acquireIpi_ipiData (q : Nat) : (x.acquireIpi q).ipiData = x.ipiData := rfl
@[simp] theorem acquireIpi_palBase (q : Nat) : (x.acquireIpi q).palBase = x.palBase := rfl
@[simp] theorem acquireIpi_slot (q : Nat) : (x.acquireIpi q).slot = x.slot := rfl
@[simp] theorem acquireIpi_halted (q : Nat) : (x.acquireIpi q).halted = x.halted := rfl
@[simp] theorem acquireIpi_haltCode (q : Nat) : (x.acquireIpi q).haltCode = x.haltCode := rfl
@[simp] theorem acquireIpi_busy (q : Nat) : (x.acquireIpi q).busy = x.busy := rfl
@[simp] theorem acquireIpi_ipiSeen (q : Nat) : (x.acquireIpi q).ipiSeen = observeIpi x.ipiSeen q x.ipiRequest := rfl

/-! ### arbiterLoads -/

@[simp] theorem arbiterLoads_irqPending (c : Nat) : (x.arbiterLoads c).irqPending = x.irqPending := rfl
@[simp] theorem arbiterLoads_ipl (c : Nat) : (x.arbiterLoads c).ipl = x.ipl := rfl
@[simp] theorem arbiterLoads_cm (c : Nat) : (x.arbiterLoads c).cm = x.cm := rfl
@[simp] theorem arbiterLoads_sirr (c : Nat) : (x.arbiterLoads c).sirr = x.sirr := rfl
@[simp] theorem arbiterLoads_pctx (c : Nat) : (x.arbiterLoads c).pctx = x.pctx := rfl
@[simp] theorem arbiterLoads_astState (c : Nat) : (x.arbiterLoads c).astState = x.astState := rfl
@[simp] theorem arbiterLoads_ier (c : Nat) : (x.arbiterLoads c).ier = x.ier := rfl
@[simp] theorem arbiterLoads_palMode (c : Nat) : (x.arbiterLoads c).palMode = x.palMode := rfl
@[simp] theorem arbiterLoads_ipiRequest (c : Nat) : (x.arbiterLoads c).ipiRequest = x.ipiRequest := rfl
@[simp] theorem arbiterLoads_ipiData (c : Nat) : (x.arbiterLoads c).ipiData = x.ipiData := rfl
@[simp] theorem arbiterLoads_palBase (c : Nat) : (x.arbiterLoads c).palBase = x.palBase := rfl
@[simp] theorem arbiterLoads_slot (c : Nat) : (x.arbiterLoads c).slot = x.slot := rfl
@[simp] theorem arbiterLoads_halted (c : Nat) : (x.arbiterLoads c).halted = x.halted := rfl
@[simp] theorem arbiterLoads_haltCode (c : Nat) : (x.arbiterLoads c).haltCode = x.haltCode := rfl
@[simp] theorem arbiterLoads_busy (c : Nat) : (x.arbiterLoads c).busy = x.busy := rfl
@[simp] theorem arbiterLoads_ipiSeen (c : Nat) :
    (x.arbiterLoads c).ipiSeen = 
      observeIpi x.ipiSeen c (decide (x.slot.kind ≠ .exception) && !x.palMode && x.ipiRequest) := rfl

/-! ### consume and returnFromPal -/

@[simp] theorem consume_irqPending : (consume x e).irqPending = x.irqPending := by unfold consume; split <;> rfl
@[simp] theorem consume_ipl : (consume x e).ipl = x.ipl := by unfold consume; split <;> rfl
@[simp] theorem consume_cm : (consume x e).cm = x.cm := by unfold consume; split <;> rfl
@[simp] theorem consume_sirr : (consume x e).sirr = x.sirr := by unfold consume; split <;> rfl
@[simp] theorem consume_pctx : (consume x e).pctx = x.pctx := by unfold consume; split <;> rfl
@[simp] theorem consume_astState : (consume x e).astState = x.astState := by unfold consume; split <;> rfl
@[simp] theorem consume_ier : (consume x e).ier = x.ier := by unfold consume; split <;> rfl
@[simp] theorem consume_ipiRequest : (consume x e).ipiRequest = x.ipiRequest := by unfold consume; split <;> rfl
@[simp] theorem consume_ipiData : (consume x e).ipiData = x.ipiData := by unfold consume; split <;> rfl
@[simp] theorem consume_palBase : (consume x e).palBase = x.palBase := by unfold consume; split <;> rfl
@[simp] theorem consume_halted : (consume x e).halted = x.halted := by unfold consume; split <;> rfl
@[simp] theorem consume_haltCode : (consume x e).haltCode = x.haltCode := by unfold consume; split <;> rfl
@[simp] theorem consume_busy : (consume x e).busy = x.busy := by unfold consume; split <;> rfl
@[simp] theorem consume_ipiSeen : (consume x e).ipiSeen = x.ipiSeen := by unfold consume; split <;> rfl
@[simp] theorem returnFromPal_irqPending (b : Bool) :
    (returnFromPal x b).irqPending = x.irqPending := by cases b <;> rfl
@[simp] theorem returnFromPal_ipl (b : Bool) : (returnFromPal x b).ipl = x.ipl := by cases b <;> rfl
@[simp] theorem returnFromPal_cm (b : Bool) : (returnFromPal x b).cm = x.cm := by cases b <;> rfl
@[simp] theorem returnFromPal_sirr (b : Bool) : (returnFromPal x b).sirr = x.sirr := by cases b <;> rfl
@[simp] theorem returnFromPal_pctx (b : Bool) : (returnFromPal x b).pctx = x.pctx := by cases b <;> rfl
@[simp] theorem returnFromPal_astState (b : Bool) : (returnFromPal x b).astState = x.astState := by cases b <;> rfl
@[simp] theorem returnFromPal_ier (b : Bool) : (returnFromPal x b).ier = x.ier := by cases b <;> rfl
@[simp] theorem returnFromPal_palMode (b : Bool) : (returnFromPal x b).palMode = (!b && x.palMode) := by cases b <;> rfl
@[simp] theorem returnFromPal_ipiRequest (b : Bool) :
    (returnFromPal x b).ipiRequest = x.ipiRequest := by cases b <;> rfl
@[simp] theorem returnFromPal_ipiData (b : Bool) : (returnFromPal x b).ipiData = x.ipiData := by cases b <;> rfl
@[simp] theorem returnFromPal_palBase (b : Bool) : (returnFromPal x b).palBase = x.palBase := by cases b <;> rfl
@[simp] theorem returnFromPal_slot (b : Bool) : (returnFromPal x b).slot = x.slot := by cases b <;> rfl
@[simp] theorem returnFromPal_halted (b : Bool) : (returnFromPal x b).halted = x.halted := by cases b <;> rfl
@[simp] theorem returnFromPal_haltCode (b : Bool) : (returnFromPal x b).haltCode = x.haltCode := by cases b <;> rfl
@[simp] theorem returnFromPal_busy (b : Bool) : (returnFromPal x b).busy = x.busy := by cases b <;> rfl
@[simp] theorem returnFromPal_ipiSeen (b : Bool) : (returnFromPal x b).ipiSeen = x.ipiSeen := by cases b <;> rfl

/-! ### applyToCpu -/

theorem applyDeltas_eq : applyDeltas x r =
    { x with
      cm := if r.psModified then r.newPS.extractLsb' 3 2 else x.cm
      ipl := if r.iplModified then r.newIPL else x.ipl
      pctx := if r.asnModified then pctxWithAsn x.pctx r.newASN else x.pctx } := by
  unfold applyDeltas
  cases r.psModified <;> cases r.iplModified <;> cases r.asnModified <;> rfl

@[simp] theorem applyDeltas_irqPending : (applyDeltas x r).irqPending = x.irqPending := by rw [applyDeltas_eq]
@[simp] theorem applyDeltas_ipl :
    (applyDeltas x r).ipl = if r.iplModified then r.newIPL else x.ipl := by rw [applyDeltas_eq]
@[simp] theorem applyDeltas_cm :
    (applyDeltas x r).cm = if r.psModified then r.newPS.extractLsb' 3 2 else x.cm := by rw [applyDeltas_eq]
@[simp] theorem applyDeltas_sirr : (applyDeltas x r).sirr = x.sirr := by rw [applyDeltas_eq]
@[simp] theorem applyDeltas_pctx :
    (applyDeltas x r).pctx = if r.asnModified then pctxWithAsn x.pctx r.newASN else x.pctx := by rw [applyDeltas_eq]
@[simp] theorem applyDeltas_astState : (applyDeltas x r).astState = x.astState := by rw [applyDeltas_eq]
@[simp] theorem applyDeltas_ier : (applyDeltas x r).ier = x.ier := by rw [applyDeltas_eq]
@[simp] theorem applyDeltas_palMode : (applyDeltas x r).palMode = x.palMode := by rw [applyDeltas_eq]
@[simp] theorem applyDeltas_ipiRequest : (applyDeltas x r).ipiRequest = x.ipiRequest := by rw [applyDeltas_eq]
@[simp] theorem applyDeltas_ipiData : (applyDeltas x r).ipiData = x.ipiData := by rw [applyDeltas_eq]
@[simp] theorem applyDeltas_palBase : (applyDeltas x r).palBase = x.palBase := by rw [applyDeltas_eq]
@[simp] theorem applyDeltas_slot : (applyDeltas x r).slot = x.slot := by rw [applyDeltas_eq]
@[simp] theorem applyDeltas_halted : (applyDeltas x r).halted = x.halted := by rw [applyDeltas_eq]
@[simp] theorem applyDeltas_haltCode : (applyDeltas x r).haltCode = x.haltCode := by rw [applyDeltas_eq]
@[simp] theorem applyDeltas_busy : (applyDeltas x r).busy = x.busy := by rw [applyDeltas_eq]
@[simp] theorem applyDeltas_ipiSeen : (applyDeltas x r).ipiSeen = x.ipiSeen := by rw [applyDeltas_eq]
@[simp] theorem applyHalt_irqPending :
    (applyHalt x r).irqPending = x.irqPending := by unfold applyHalt; split <;> simp_all
@[simp] theorem applyHalt_ipl : (applyHalt x r).ipl = x.ipl := by unfold applyHalt; split <;> simp_all
@[simp] theorem applyHalt_cm : (applyHalt x r).cm = x.cm := by unfold applyHalt; split <;> simp_all
@[simp] theorem applyHalt_sirr : (applyHalt x r).sirr = x.sirr := by unfold applyHalt; split <;> simp_all
@[simp] theorem applyHalt_pctx : (applyHalt x r).pctx = x.pctx := by unfold applyHalt; split <;> simp_all
@[simp] theorem applyHalt_astState : (applyHalt x r).astState = x.astState := by unfold applyHalt; split <;> simp_all
@[simp] theorem applyHalt_ier : (applyHalt x r).ier = x.ier := by unfold applyHalt; split <;> simp_all
@[simp] theorem applyHalt_palMode : (applyHalt x r).palMode = x.palMode := by unfold applyHalt; split <;> simp_all
@[simp] theorem applyHalt_ipiRequest :
    (applyHalt x r).ipiRequest = x.ipiRequest := by unfold applyHalt; split <;> simp_all
@[simp] theorem applyHalt_ipiData : (applyHalt x r).ipiData = x.ipiData := by unfold applyHalt; split <;> simp_all
@[simp] theorem applyHalt_palBase : (applyHalt x r).palBase = x.palBase := by unfold applyHalt; split <;> simp_all
@[simp] theorem applyHalt_slot : (applyHalt x r).slot = x.slot := by unfold applyHalt; split <;> simp_all
@[simp] theorem applyHalt_halted :
    (applyHalt x r).halted = (hasEffect (effectBits r.sideEffects) .halt || x.halted) := by unfold applyHalt; split <;> simp_all
@[simp] theorem applyHalt_haltCode :
    (applyHalt x r).haltCode = if hasEffect (effectBits r.sideEffects) .halt then r.haltCode else x.haltCode := by unfold applyHalt; split <;> simp_all
@[simp] theorem applyHalt_busy : (applyHalt x r).busy = x.busy := by unfold applyHalt; split <;> simp_all
@[simp] theorem applyHalt_ipiSeen : (applyHalt x r).ipiSeen = x.ipiSeen := by unfold applyHalt; split <;> simp_all
@[simp] theorem applyToCpu_irqPending : (applyToCpu x r).irqPending = x.irqPending := by simp [applyToCpu]
@[simp] theorem applyToCpu_ipl :
    (applyToCpu x r).ipl = if r.iplModified then r.newIPL else x.ipl := by simp [applyToCpu]
@[simp] theorem applyToCpu_cm :
    (applyToCpu x r).cm = if r.psModified then r.newPS.extractLsb' 3 2 else x.cm := by simp [applyToCpu]
@[simp] theorem applyToCpu_sirr : (applyToCpu x r).sirr = x.sirr := by simp [applyToCpu]
@[simp] theorem applyToCpu_pctx :
    (applyToCpu x r).pctx = if r.asnModified then pctxWithAsn x.pctx r.newASN else x.pctx := by simp [applyToCpu]
@[simp] theorem applyToCpu_astState : (applyToCpu x r).astState = x.astState := by simp [applyToCpu]
@[simp] theorem applyToCpu_ier : (applyToCpu x r).ier = x.ier := by simp [applyToCpu]
@[simp] theorem applyToCpu_palMode : (applyToCpu x r).palMode = (!r.doesReturn && x.palMode) := by simp [applyToCpu]
@[simp] theorem applyToCpu_ipiRequest : (applyToCpu x r).ipiRequest = x.ipiRequest := by simp [applyToCpu]
@[simp] theorem applyToCpu_ipiData : (applyToCpu x r).ipiData = x.ipiData := by simp [applyToCpu]
@[simp] theorem applyToCpu_palBase : (applyToCpu x r).palBase = x.palBase := by simp [applyToCpu]
@[simp] theorem applyToCpu_slot : (applyToCpu x r).slot = x.slot := by simp [applyToCpu]
@[simp] theorem applyToCpu_halted :
    (applyToCpu x r).halted = (hasEffect (effectBits r.sideEffects) .halt || x.halted) := by simp [applyToCpu]
@[simp] theorem applyToCpu_haltCode :
    (applyToCpu x r).haltCode = if hasEffect (effectBits r.sideEffects) .halt then r.haltCode else x.haltCode := by simp [applyToCpu]
@[simp] theorem applyToCpu_busy : (applyToCpu x r).busy = x.busy := by simp [applyToCpu]
@[simp] theorem applyToCpu_ipiSeen : (applyToCpu x r).ipiSeen = x.ipiSeen := by simp [applyToCpu]

/-- Applying a PalResult writes these six fields and nothing else (R351 steps 1, 4, 5). -/
theorem applyToCpu_eq : applyToCpu x r =
    { x with
      cm := if r.psModified then r.newPS.extractLsb' 3 2 else x.cm
      ipl := if r.iplModified then r.newIPL else x.ipl
      pctx := if r.asnModified then pctxWithAsn x.pctx r.newASN else x.pctx
      palMode := !r.doesReturn && x.palMode
      halted := hasEffect (effectBits r.sideEffects) .halt || x.halted
      haltCode := if hasEffect (effectBits r.sideEffects) .halt then r.haltCode else x.haltCode } := by
  unfold applyToCpu applyHalt returnFromPal
  rw [applyDeltas_eq]
  cases r.doesReturn <;> cases hasEffect (effectBits r.sideEffects) .halt <;> rfl

/-- The vector of a PalResult reaches no CPU's state (R355). -/
@[simp] theorem applyToCpu_cut : applyToCpu x (r.cut p) = applyToCpu x r := rfl

@[simp] theorem actionsOf_cut (o : List PipelineEffect) : actionsOf (r.cut p) o = actionsOf r o := rfl

/-! ### Inter-processor interrupts -/

@[simp] theorem setIpiRequest_irqPending : (setIpiRequest x).irqPending = x.irqPending := rfl
@[simp] theorem setIpiRequest_ipl : (setIpiRequest x).ipl = x.ipl := rfl
@[simp] theorem setIpiRequest_cm : (setIpiRequest x).cm = x.cm := rfl
@[simp] theorem setIpiRequest_sirr : (setIpiRequest x).sirr = x.sirr := rfl
@[simp] theorem setIpiRequest_pctx : (setIpiRequest x).pctx = x.pctx := rfl
@[simp] theorem setIpiRequest_astState : (setIpiRequest x).astState = x.astState := rfl
@[simp] theorem setIpiRequest_ier : (setIpiRequest x).ier = x.ier := rfl
@[simp] theorem setIpiRequest_palMode : (setIpiRequest x).palMode = x.palMode := rfl
@[simp] theorem setIpiRequest_ipiRequest : (setIpiRequest x).ipiRequest = true := rfl
@[simp] theorem setIpiRequest_ipiData : (setIpiRequest x).ipiData = x.ipiData := rfl
@[simp] theorem setIpiRequest_palBase : (setIpiRequest x).palBase = x.palBase := rfl
@[simp] theorem setIpiRequest_slot : (setIpiRequest x).slot = x.slot := rfl
@[simp] theorem setIpiRequest_halted : (setIpiRequest x).halted = x.halted := rfl
@[simp] theorem setIpiRequest_haltCode : (setIpiRequest x).haltCode = x.haltCode := rfl
@[simp] theorem setIpiRequest_busy : (setIpiRequest x).busy = x.busy := rfl
@[simp] theorem setIpiRequest_ipiSeen : (setIpiRequest x).ipiSeen = x.ipiSeen := rfl
@[simp] theorem setIpiInterrupt_irqPending : (setIpiInterrupt p x).irqPending = x.irqPending ||| ipiBit p := rfl
@[simp] theorem setIpiInterrupt_ipl : (setIpiInterrupt p x).ipl = x.ipl := rfl
@[simp] theorem setIpiInterrupt_cm : (setIpiInterrupt p x).cm = x.cm := rfl
@[simp] theorem setIpiInterrupt_sirr : (setIpiInterrupt p x).sirr = x.sirr := rfl
@[simp] theorem setIpiInterrupt_pctx : (setIpiInterrupt p x).pctx = x.pctx := rfl
@[simp] theorem setIpiInterrupt_astState : (setIpiInterrupt p x).astState = x.astState := rfl
@[simp] theorem setIpiInterrupt_ier : (setIpiInterrupt p x).ier = x.ier := rfl
@[simp] theorem setIpiInterrupt_palMode : (setIpiInterrupt p x).palMode = x.palMode := rfl
@[simp] theorem setIpiInterrupt_ipiRequest : (setIpiInterrupt p x).ipiRequest = x.ipiRequest := rfl
@[simp] theorem setIpiInterrupt_ipiData : (setIpiInterrupt p x).ipiData = x.ipiData := rfl
@[simp] theorem setIpiInterrupt_palBase : (setIpiInterrupt p x).palBase = x.palBase := rfl
@[simp] theorem setIpiInterrupt_slot : (setIpiInterrupt p x).slot = x.slot := rfl
@[simp] theorem setIpiInterrupt_halted : (setIpiInterrupt p x).halted = x.halted := rfl
@[simp] theorem setIpiInterrupt_haltCode : (setIpiInterrupt p x).haltCode = x.haltCode := rfl
@[simp] theorem setIpiInterrupt_busy : (setIpiInterrupt p x).busy = x.busy := rfl
@[simp] theorem setIpiInterrupt_ipiSeen : (setIpiInterrupt p x).ipiSeen = x.ipiSeen := rfl
@[simp] theorem clearIpiInterrupt_irqPending :
    (clearIpiInterrupt p x).irqPending = x.irqPending &&& ~~~(ipiBit p) := rfl
@[simp] theorem clearIpiInterrupt_ipl : (clearIpiInterrupt p x).ipl = x.ipl := rfl
@[simp] theorem clearIpiInterrupt_cm : (clearIpiInterrupt p x).cm = x.cm := rfl
@[simp] theorem clearIpiInterrupt_sirr : (clearIpiInterrupt p x).sirr = x.sirr := rfl
@[simp] theorem clearIpiInterrupt_pctx : (clearIpiInterrupt p x).pctx = x.pctx := rfl
@[simp] theorem clearIpiInterrupt_astState : (clearIpiInterrupt p x).astState = x.astState := rfl
@[simp] theorem clearIpiInterrupt_ier : (clearIpiInterrupt p x).ier = x.ier := rfl
@[simp] theorem clearIpiInterrupt_palMode : (clearIpiInterrupt p x).palMode = x.palMode := rfl
@[simp] theorem clearIpiInterrupt_ipiRequest : (clearIpiInterrupt p x).ipiRequest = x.ipiRequest := rfl
@[simp] theorem clearIpiInterrupt_ipiData : (clearIpiInterrupt p x).ipiData = x.ipiData := rfl
@[simp] theorem clearIpiInterrupt_palBase : (clearIpiInterrupt p x).palBase = x.palBase := rfl
@[simp] theorem clearIpiInterrupt_slot : (clearIpiInterrupt p x).slot = x.slot := rfl
@[simp] theorem clearIpiInterrupt_halted : (clearIpiInterrupt p x).halted = x.halted := rfl
@[simp] theorem clearIpiInterrupt_haltCode : (clearIpiInterrupt p x).haltCode = x.haltCode := rfl
@[simp] theorem clearIpiInterrupt_busy : (clearIpiInterrupt p x).busy = x.busy := rfl
@[simp] theorem clearIpiInterrupt_ipiSeen : (clearIpiInterrupt p x).ipiSeen = x.ipiSeen := rfl

/-! ### reset -/

@[simp] theorem reset_irqPending : (CpuState.reset p).irqPending = 0 := rfl
@[simp] theorem reset_ipl : (CpuState.reset p).ipl = p.resetIpl := rfl
@[simp] theorem reset_cm : (CpuState.reset p).cm = 0 := rfl
@[simp] theorem reset_sirr : (CpuState.reset p).sirr = 0 := rfl
@[simp] theorem reset_pctx : (CpuState.reset p).pctx = 0 := rfl
@[simp] theorem reset_astState : (CpuState.reset p).astState = 0 := rfl
@[simp] theorem reset_ier : (CpuState.reset p).ier = p.ierReset := rfl
@[simp] theorem reset_palMode : (CpuState.reset p).palMode = true := rfl
@[simp] theorem reset_ipiRequest : (CpuState.reset p).ipiRequest = false := rfl
@[simp] theorem reset_ipiData : (CpuState.reset p).ipiData = 0 := rfl
@[simp] theorem reset_palBase : (CpuState.reset p).palBase = p.palBaseReset &&& p.palBaseMask := rfl
@[simp] theorem reset_slot : (CpuState.reset p).slot = PendingEvent.empty := rfl
@[simp] theorem reset_halted : (CpuState.reset p).halted = false := rfl
@[simp] theorem reset_haltCode : (CpuState.reset p).haltCode = 0 := rfl
@[simp] theorem reset_busy : (CpuState.reset p).busy = none := rfl
@[simp] theorem reset_ipiSeen : (CpuState.reset p).ipiSeen = [] := rfl

end

end Sys2Proof.Laws
end

