-- ==== Sys2Proof/Laws/FnCode.lean ====
section
/-! SUPPORT. What `extractFc` reads from a word put together from its fields, one lemma per format class (R114-R116). -/

namespace Sys2Proof.Laws

open Sys2Proof.Machine

theorem opcodeOf_encode (i : Instr) : opcodeOf (encode i) = i.opcode := opcodeOf_append ..

theorem restOf_encode (i : Instr) : restOf (encode i) = i.rest := restOf_append ..

section
variable {p : Params} {op : Opcode}

theorem extractFc_pal (h : formatOf p op = .pal) (fc : BitVec 26) : extractFc p (op ++ fc) = fc := by
  simp only [extractFc, opcodeOf_append, h]; exact extract_append_lo ..

theorem extractFc_none (h : formatOf p op = .memory ∨ formatOf p op = .branch ∨ formatOf p op = .unknown) (r : BitVec 26) :
    extractFc p (op ++ r) = 0 := by
  rcases h with h | h | h <;> simp only [extractFc, opcodeOf_append, h]

theorem extractFc_field {lo len : Nat} (r : BitVec 26) (h : lo + len ≤ 26)
    (hx : ∀ w : Word, opcodeOf w = op → extractFc p w = (w.extractLsb' lo len).setWidth 26) :
    extractFc p (op ++ r) = (r.extractLsb' lo len).setWidth 26 := by
  rw [hx _ (opcodeOf_append op r), extract_append_of_le op r h]

theorem extractFc_operate (h : formatOf p op = .operate) (hi : BitVec 14) (fc : BitVec 7) (lo : BitVec 5) :
    extractFc p (op ++ (hi ++ fc ++ lo : BitVec 26)) = fc.setWidth 26 :=
  (extractFc_field (lo := 5) (len := 7) _ (by omega) fun w hw => by simp only [extractFc, hw, h]).trans
    (congrArg (BitVec.setWidth 26) (extract_append_mid hi fc lo))

theorem extractFc_float (h : formatOf p op = .float) (hi : BitVec 10) (fc : BitVec 11) (lo : BitVec 5) :
    extractFc p (op ++ (hi ++ fc ++ lo : BitVec 26)) = fc.setWidth 26 :=
  (extractFc_field (lo := 5) (len := 11) _ (by omega) fun w hw => by simp only [extractFc, hw, h]).trans
    (congrArg (BitVec.setWidth 26) (extract_append_mid hi fc lo))

theorem extractFc_memory_barrier (h : formatOf p op = .memoryBarrier) (hf : p.fcMisc = ⟨0, 16⟩) (hi : BitVec 10)
    (fc : BitVec 16) : extractFc p (op ++ (hi ++ fc : BitVec 26)) = fc.setWidth 26 :=
  (extractFc_field (lo := 0) (len := 16) _ (by omega) fun w hw => by
    simp only [extractFc, hw, h, fieldOf]; rw [hf]).trans (congrArg (BitVec.setWidth 26) (extract_append_lo hi fc))

theorem extractFc_jump (h : formatOf p op = .jump) (hf : p.fcJump = ⟨14, 2⟩) (hi : BitVec 10) (fc : BitVec 2)
    (lo : BitVec 14) : extractFc p (op ++ (hi ++ fc ++ lo : BitVec 26)) = fc.setWidth 26 :=
  (extractFc_field (lo := 14) (len := 2) _ (by omega) fun w hw => by
    simp only [extractFc, hw, h, fieldOf]; rw [hf]).trans (congrArg (BitVec.setWidth 26) (extract_append_mid hi fc lo))

end

/-! ### An instruction from its opcode and its other bits -/

theorem ofFields_opcode (op : Opcode) (r : BitVec 26) : (Instr.ofFields op r).opcode = op := by
  obtain ⟨⟨n, h⟩⟩ := op
  simp only [Instr.ofFields, BitVec.toNat]
  interval_cases n <;> rfl

theorem ofFields_rest (op : Opcode) (r : BitVec 26) : (Instr.ofFields op r).rest = r := by
  have operate : r.extractLsb' 12 14 ++ r.extractLsb' 5 7 ++ r.extractLsb' 0 5 = r :=
    append3_of_extracts (a := 14) (b := 7) (c := 5) r
  have float : r.extractLsb' 16 10 ++ r.extractLsb' 5 11 ++ r.extractLsb' 0 5 = r :=
    append3_of_extracts (a := 10) (b := 11) (c := 5) r
  have jump : r.extractLsb' 16 10 ++ r.extractLsb' 14 2 ++ r.extractLsb' 0 14 = r :=
    append3_of_extracts (a := 10) (b := 2) (c := 14) r
  have misc : r.extractLsb' 16 10 ++ r.extractLsb' 0 16 = r := append_of_extracts (a := 10) (b := 16) r
  obtain ⟨⟨n, h⟩⟩ := op
  have hn : n < 64 := h
  simp only [Instr.ofFields, BitVec.toNat]
  clear h
  interval_cases n
  iterate 16 · rfl
  iterate 4 · exact operate
  iterate 4 · exact float
  · exact misc
  · rfl
  · exact jump
  · rfl
  · exact operate
  all_goals rfl

end Sys2Proof.Laws
end

