-- ==== Sys2Proof/Laws/State.lean ====
section
/-! SUPPORT. One lemma per field per update of State, so that no proof unfolds a record update. -/

namespace Sys2Proof.Laws

open Sys2Proof.Machine

section
variable (s : State)

/-! ### emit -/

@[simp] theorem emit_params (o : List Output) : (s.emit o).params = s.params := rfl
@[simp] theorem emit_registry (o : List Output) : (s.emit o).registry = s.registry := rfl
@[simp] theorem emit_activePlatform (o : List Output) : (s.emit o).activePlatform = s.activePlatform := rfl
@[simp] theorem emit_isSealed (o : List Output) : (s.emit o).isSealed = s.isSealed := rfl
@[simp] theorem emit_bank (o : List Output) : (s.emit o).bank = s.bank := rfl
@[simp] theorem emit_current (o : List Output) : (s.emit o).current = s.current := rfl
@[simp] theorem emit_requests (o : List Output) : (s.emit o).requests = s.requests := rfl
@[simp] theorem emit_outputs (o : List Output) : (s.emit o).outputs = o := rfl
@[simp] theorem emit_draws (o : List Output) : (s.emit o).draws = s.draws := rfl

/-! ### popRequest -/

@[simp] theorem popRequest_params (rest : List Request) : (s.popRequest rest).params = s.params := rfl
@[simp] theorem popRequest_registry (rest : List Request) : (s.popRequest rest).registry = s.registry := rfl
@[simp] theorem popRequest_activePlatform (rest : List Request) :
    (s.popRequest rest).activePlatform = s.activePlatform := rfl
@[simp] theorem popRequest_isSealed (rest : List Request) : (s.popRequest rest).isSealed = s.isSealed := rfl
@[simp] theorem popRequest_bank (rest : List Request) : (s.popRequest rest).bank = s.bank := rfl
@[simp] theorem popRequest_current (rest : List Request) : (s.popRequest rest).current = s.current := rfl
@[simp] theorem popRequest_requests (rest : List Request) : (s.popRequest rest).requests = rest := rfl
@[simp] theorem popRequest_outputs (rest : List Request) : (s.popRequest rest).outputs = [] := rfl
@[simp] theorem popRequest_draws (rest : List Request) : (s.popRequest rest).draws = s.draws := rfl

/-! ### setCpu -/

@[simp] theorem setCpu_params (c : Nat) (x : CpuState) : (s.setCpu c x).params = s.params := rfl
@[simp] theorem setCpu_registry (c : Nat) (x : CpuState) : (s.setCpu c x).registry = s.registry := rfl
@[simp] theorem setCpu_activePlatform (c : Nat) (x : CpuState) : (s.setCpu c x).activePlatform = s.activePlatform := rfl
@[simp] theorem setCpu_isSealed (c : Nat) (x : CpuState) : (s.setCpu c x).isSealed = s.isSealed := rfl
@[simp] theorem setCpu_bank (c : Nat) (x : CpuState) :
    (s.setCpu c x).bank = s.bank.map (fun cpus => cpus.modify c (Option.map fun _ => x)) := rfl
@[simp] theorem setCpu_current (c : Nat) (x : CpuState) : (s.setCpu c x).current = s.current := rfl
@[simp] theorem setCpu_requests (c : Nat) (x : CpuState) : (s.setCpu c x).requests = s.requests := rfl
@[simp] theorem setCpu_outputs (c : Nat) (x : CpuState) : (s.setCpu c x).outputs = s.outputs := rfl
@[simp] theorem setCpu_draws (c : Nat) (x : CpuState) : (s.setCpu c x).draws = s.draws := rfl

/-! ### touchBank -/

@[simp] theorem touchBank_params : s.touchBank.params = s.params := by unfold State.touchBank; split <;> rfl
@[simp] theorem touchBank_registry : s.touchBank.registry = s.registry := by unfold State.touchBank; split <;> rfl
@[simp] theorem touchBank_activePlatform :
    s.touchBank.activePlatform = s.activePlatform := by unfold State.touchBank; split <;> rfl
@[simp] theorem touchBank_isSealed : s.touchBank.isSealed = s.isSealed := by unfold State.touchBank; split <;> rfl
@[simp] theorem touchBank_current : s.touchBank.current = s.current := by unfold State.touchBank; split <;> rfl
@[simp] theorem touchBank_requests : s.touchBank.requests = s.requests := by unfold State.touchBank; split <;> rfl
@[simp] theorem touchBank_outputs : s.touchBank.outputs = s.outputs := by unfold State.touchBank; split <;> rfl
@[simp] theorem touchBank_draws : s.touchBank.draws = s.draws := by unfold State.touchBank; split <;> rfl

/-! ### raise -/

@[simp] theorem raise_eq (c : Nat) (x : CpuState) (k : TrapClass) (va info : Quad) (f : EventFlags) :
    s.raise c x k va info f = s.setCpu c (raiseTrap s.params x k va info f) := rfl

/-! ### setBusy -/

@[simp] theorem setBusy_params (c : Nat) (b : Option IpiLine) :
    (s.setBusy c b).params = s.params := by unfold State.setBusy; split <;> rfl
@[simp] theorem setBusy_registry (c : Nat) (b : Option IpiLine) :
    (s.setBusy c b).registry = s.registry := by unfold State.setBusy; split <;> rfl
@[simp] theorem setBusy_activePlatform (c : Nat) (b : Option IpiLine) :
    (s.setBusy c b).activePlatform = s.activePlatform := by unfold State.setBusy; split <;> rfl
@[simp] theorem setBusy_isSealed (c : Nat) (b : Option IpiLine) :
    (s.setBusy c b).isSealed = s.isSealed := by unfold State.setBusy; split <;> rfl
@[simp] theorem setBusy_current (c : Nat) (b : Option IpiLine) :
    (s.setBusy c b).current = s.current := by unfold State.setBusy; split <;> rfl
@[simp] theorem setBusy_requests (c : Nat) (b : Option IpiLine) :
    (s.setBusy c b).requests = s.requests := by unfold State.setBusy; split <;> rfl
@[simp] theorem setBusy_outputs (c : Nat) (b : Option IpiLine) :
    (s.setBusy c b).outputs = s.outputs := by unfold State.setBusy; split <;> rfl
@[simp] theorem setBusy_draws (c : Nat) (b : Option IpiLine) :
    (s.setBusy c b).draws = s.draws := by unfold State.setBusy; split <;> rfl

/-! ### withFetchWord -/

@[simp] theorem withFetchWord_params (n w : Nat) : (s.withFetchWord n w).params = s.params := rfl
@[simp] theorem withFetchWord_registry (n w : Nat) : (s.withFetchWord n w).registry = s.registry := rfl
@[simp] theorem withFetchWord_activePlatform (n w : Nat) :
    (s.withFetchWord n w).activePlatform = s.activePlatform := rfl
@[simp] theorem withFetchWord_isSealed (n w : Nat) : (s.withFetchWord n w).isSealed = s.isSealed := rfl
@[simp] theorem withFetchWord_bank (n w : Nat) : (s.withFetchWord n w).bank = s.bank := rfl
@[simp] theorem withFetchWord_current (n w : Nat) : (s.withFetchWord n w).current = s.current := rfl
@[simp] theorem withFetchWord_requests (n w : Nat) :
    (s.withFetchWord n w).requests =
    ⟨.cpu 0, .decode 0 (BitVec.ofNat 32 (w % 2 ^ n)) s.params.resetPc⟩ :: s.requests := rfl
@[simp] theorem withFetchWord_outputs (n w : Nat) : (s.withFetchWord n w).outputs = s.outputs := rfl
@[simp] theorem withFetchWord_draws (n w : Nat) : (s.withFetchWord n w).draws = s.draws := rfl

end

end Sys2Proof.Laws
end

