-- ==== Sys2Proof/Laws/Ops.lean ====
section
/-! SUPPORT. The bank: reading a CPU after an update, the lazy initialization, and what `withCpu` can answer. -/

namespace Sys2Proof.Laws

open Sys2Proof.Machine

section
variable (s : State)

/-! ### The bank -/

theorem cpu?_of_bank_eq {s t : State} (h : t.bank = s.bank) (c : Nat) : t.cpu? c = s.cpu? c := by simp only [State.cpu?, h]

@[simp] theorem cpu?_emit (o : List Output) (c : Nat) : (s.emit o).cpu? c = s.cpu? c := rfl

@[simp] theorem cpu?_popRequest (rest : List Request) (c : Nat) : (s.popRequest rest).cpu? c = s.cpu? c := rfl

@[simp] theorem cpu?_with_current (i : DecodeInput) (c : Nat) : State.cpu? { s with current := i } c = s.cpu? c := rfl

@[simp] theorem cpu?_with_draws (n c : Nat) : State.cpu? { s with draws := n } c = s.cpu? c := rfl

/-- Reading a CPU of the bank after one of them is replaced. -/
theorem cpu?_setCpu (c d : Nat) (x : CpuState) :
    (s.setCpu c x).cpu? d = if d = c then (s.cpu? d).map (fun _ => x) else s.cpu? d := by
  unfold State.cpu? State.setCpu
  cases s.bank with
  | none => simp
  | some cpus =>
    simp only [Option.map_some, List.getElem?_modify]
    by_cases h : d = c
    · subst h
      cases cpus[d]? <;> simp
    · simp [h, Ne.symm h]

@[simp] theorem cpu?_setCpu_other {c d : Nat} (h : d ≠ c) (x : CpuState) : (s.setCpu c x).cpu? d = s.cpu? d := by
  simp [cpu?_setCpu, h]

theorem cpu?_setCpu_same {c : Nat} {x y : CpuState} (h : s.cpu? c = some y) : (s.setCpu c x).cpu? c = some x := by
  simp [cpu?_setCpu, h]

theorem setCpu_setCpu (c : Nat) (x y : CpuState) : (s.setCpu c x).setCpu c y = s.setCpu c y := by
  cases hb : s.bank with
  | none => simp [State.setCpu, hb]
  | some cpus =>
    simp only [State.setCpu, hb, Option.map_some, State.mk.injEq, Option.some.injEq, true_and, and_true]
    apply List.ext_getElem? fun i => ?_
    simp only [List.getElem?_modify]
    split <;> rcases cpus[i]? with _ | _ | _ <;> simp

/-- Writing back the state a CPU has changes nothing. -/
theorem setCpu_self {s : State} {c : Nat} {x : CpuState} (h : s.cpu? c = some x) : s.setCpu c x = s := by
  cases hb : s.bank with
  | none => simp [State.cpu?, hb] at h
  | some cpus =>
    have hx : cpus[c]?.join = some x := by simpa [State.cpu?, hb] using h
    have : cpus.modify c (Option.map fun _ => x) = cpus := by
      apply List.ext_getElem? fun i => ?_
      rw [List.getElem?_modify]
      by_cases hi : c = i
      · subst hi
        cases hc : cpus[c]? with
        | none => simp
        | some o => cases o <;> simp_all
      · simp [hi]
    cases s
    simp_all [State.setCpu]

/-- The next line of an IPI operation is recorded on an existing CPU (R450, R451). -/
theorem setBusy_eq {s : State} {c : Nat} {x : CpuState} (h : s.cpu? c = some x) (b : Option IpiLine) :
    s.setBusy c b = s.setCpu c { x with busy := b } := by simp [State.setBusy, h]

/-! ### Lazy initialization (R53) -/

theorem touchBank_of_bank {s : State} {cpus : List (Option CpuState)} (h : s.bank = some cpus) : s.touchBank = s := by
  simp [State.touchBank, h]

theorem touchBank_of_none {s : State} (h : s.bank = none) :
    s.touchBank.bank = some (List.replicate s.params.defaultCpuCount (some (CpuState.reset s.params))) := by
  simp [State.touchBank, h]

@[simp] theorem touchBank_touchBank : s.touchBank.touchBank = s.touchBank := by
  cases h : s.bank with
  | none => exact touchBank_of_bank (touchBank_of_none h)
  | some cpus => rw [touchBank_of_bank h]; exact touchBank_of_bank h

@[simp] theorem touchBank_emit (o : List Output) : (s.emit o).touchBank = s.touchBank.emit o := by
  cases h : s.bank <;> simp [State.touchBank, State.emit, h]

@[simp] theorem touchBank_popRequest (rest : List Request) : (s.popRequest rest).touchBank = s.touchBank.popRequest rest := by
  cases h : s.bank <;> simp [State.touchBank, State.popRequest, h]

@[simp] theorem touchBank_with_current (i : DecodeInput) :
    State.touchBank { s with current := i } = { s.touchBank with current := i } := by
  cases h : s.bank <;> simp [State.touchBank, h]

theorem touchBank_of_cpu? {s : State} {c : Nat} {x : CpuState} (h : s.cpu? c = some x) : s.touchBank = s := by
  cases hb : s.bank with
  | none => simp [State.cpu?, hb] at h
  | some cpus => exact touchBank_of_bank hb

/-- A CPU outside the bank makes every operation that names it a refusal (R30). -/
theorem withCpu_none {s : State} {c : Nat} (h : s.touchBank.cpu? c = none) (f : State → CpuState → Result) :
    withCpu s c f = .refused .cpuOutOfRange := by simp [withCpu, h]

theorem withCpu_some {s : State} {c : Nat} {x : CpuState} (h : s.touchBank.cpu? c = some x) (f : State → CpuState → Result) :
    withCpu s c f = f s.touchBank x := by simp [withCpu, h]

/-- An operation that names a CPU answers a next state only where the CPU is in the bank. -/
theorem withCpu_next {s t : State} {c : Nat} {f : State → CpuState → Result} (h : withCpu s c f = .next t) :
    ∃ x, s.touchBank.cpu? c = some x ∧ f s.touchBank x = .next t := by
  unfold withCpu at h
  split at h
  · exact ⟨_, by assumption, h⟩
  · cases h

/-- How many CPUs there are does not change when one is replaced. -/
theorem cpu?_isSome_setCpu (c d : Nat) (x : CpuState) : ((s.setCpu c x).cpu? d).isSome = (s.cpu? d).isSome := by
  rw [cpu?_setCpu]; split <;> simp

end

end Sys2Proof.Laws
end

