-- ==== Sys2Proof/Laws/Decode.lean ====
section
/-! SUPPORT. What an instruction's meaning can do: every arm of `exec` is the decode stage on the instruction's word
(R200-R263), and the decode stage stops, traps, or hands out DecodeOut (R151). -/

namespace Sys2Proof.Laws

open Sys2Proof.Machine

/-- Every meaning is the decode stage on the instruction's word. -/
theorem exec_eq_decodeStage (i : Instr) (s : State) : exec i s = decodeStage (encode i) s := by cases i <;> rfl

/-- Everything the decode stage can answer next: DecodeOut with nothing written but the outputs, or a trap raised on the
current CPU with no output (R151, R153). -/
theorem decodeStage_next {w : Word} {s t : State} (h : decodeStage w s = .next t) :
    ∃ x, s.touchBank.cpu? s.current.cpu = some x ∧ x.halted = false ∧ s.isSealed = true ∧
      (arbitrate s.params x).kind = .none ∧
      ((∃ d, decide151 s.params s.registry s.activePlatform x.palMode x.fpe w = .out d ∧ t = s.touchBank.emit [.decoded d]) ∨
       (∃ cls, decide151 s.params s.registry s.activePlatform x.palMode x.fpe w = .trap cls ∧
          t = (s.touchBank.setCpu s.current.cpu
            (raiseTrap s.params x cls s.current.pc (w.setWidth 64) ⟨false, false, false⟩)).emit [])) := by
  obtain ⟨x, hx, h⟩ := withCpu_next h
  refine ⟨x, hx, ?_⟩
  simp only [touchBank_params, touchBank_registry, touchBank_activePlatform, touchBank_isSealed, touchBank_current] at h
  split at h
  · cases h
  split at h
  · cases h
  split at h
  · cases h
  rename_i hh hs he
  refine ⟨by simpa using hh, by simpa using hs, by simpa using he, ?_⟩
  split at h
  · rename_i cls hd
    cases h
    exact .inr ⟨cls, hd, by simp⟩
  · rename_i d hd
    cases h
    exact .inl ⟨d, hd, rfl⟩

/-- The decode stage at an instruction boundary (R151, R431): what it decides is what happens. -/
theorem decodeStage_of {w : Word} {s : State} {x : CpuState} (hx : s.touchBank.cpu? s.current.cpu = some x)
    (hh : x.halted = false) (hs : s.isSealed = true) (he : (arbitrate s.params x).kind = .none) :
    decodeStage w s =
      match decide151 s.params s.registry s.activePlatform x.palMode x.fpe w with
      | .trap cls => .next ((s.touchBank.setCpu s.current.cpu
          (raiseTrap s.params x cls s.current.pc (w.setWidth 64) ⟨false, false, false⟩)).emit [])
      | .out d => .next (s.touchBank.emit [.decoded d]) := by
  simp only [decodeStage, withCpu_some hx, hh, touchBank_params, touchBank_registry, touchBank_activePlatform,
    touchBank_isSealed, touchBank_current, hs, he, raise_eq]
  rfl

/-- A trap class the decode stage raises is one of the two of R153. -/
theorem decide151_trap {p : Params} {reg : Registry} {active : Platform} {pal fpe : Bool} {w : Word} {cls : TrapClass}
    (h : decide151 p reg active pal fpe w = .trap cls) : cls = .illegalInstruction ∨ cls = .fpDisabled := by
  simp only [decide151] at h
  split at h
  · exact .inl (by injection h with h; exact h.symm)
  split at h
  · exact .inl (by injection h with h; exact h.symm)
  split at h
  · exact .inl (by injection h with h; exact h.symm)
  split at h
  · exact .inr (by injection h with h; exact h.symm)
  · cases h

/-! ### At an instruction boundary -/

/-- A well-formed slot at a boundary is Idle (R441, R430). -/
theorem slot_idle {p : Params} {x : CpuState} (hw : x.wf p = true) (he : (arbitrate p x).kind = .none) :
    x.slot = PendingEvent.empty := by
  simp only [CpuState.wf, Bool.and_eq_true, Bool.or_eq_true, decide_eq_true_eq] at hw
  rcases hw.1.1.1 with h | ⟨h, -⟩
  · exact h
  · rw [arbitrate, if_pos h] at he
    rw [he] at h; cases h

theorem exec_delivered {i : Instr} {s : State} {x : CpuState} {d : DecodeOut} (hb : AtBoundary s x)
    (hd : decide151 s.params s.registry s.activePlatform x.palMode x.fpe (encode i) = .out d) :
    exec i s = .next (s.delivered d) := by
  obtain ⟨hx, hh, hs, he⟩ := hb
  rw [exec_eq_decodeStage, decodeStage_of hx hh hs he, hd]; rfl

theorem exec_trapped {i : Instr} {s : State} {x : CpuState} {cls : TrapClass} (hb : AtBoundary s x)
    (hw : x.wf s.params = true)
    (hd : decide151 s.params s.registry s.activePlatform x.palMode x.fpe (encode i) = .trap cls) :
    exec i s = .next (s.trapped x cls (encode i)) := by
  obtain ⟨hx, hh, hs, he⟩ := hb
  have h : x.slot.kind = .none := by rw [slot_idle hw he]; rfl
  rw [exec_eq_decodeStage, decodeStage_of hx hh hs he, hd]
  simp [raiseTrap, postEvent, exceptionEvent, PendingEvent.cut, h, State.trapped]

/-! ### Under the default tables -/

section
variable {p : Params} (h : DefaultTables p)
include h

theorem route_default (op : Opcode) : route p op = route Params.default op := by
  obtain ⟨-, h, -⟩ := h; simp only [route, h]; rfl

theorem formatOf_default (op : Opcode) : formatOf p op = formatOf Params.default op := by
  obtain ⟨h, -⟩ := h; simp only [formatOf, h]; rfl

theorem isHardwareInternal_default (op : Opcode) : isHardwareInternal p op = isHardwareInternal Params.default op := by
  obtain ⟨-, -, h, -⟩ := h; simp only [isHardwareInternal, h]; rfl

theorem isFpOpcode_default (op : Opcode) : isFpOpcode p op = isFpOpcode Params.default op := by
  obtain ⟨-, -, -, h, -⟩ := h; simp only [isFpOpcode, h]; rfl

theorem extractFc_default (w : Word) : extractFc p w = extractFc Params.default w := by
  obtain ⟨-, -, -, -, hm, hj⟩ := id h
  simp only [extractFc, formatOf_default h, hm, hj]; rfl

theorem lookupGrain_default (reg : Registry) (op : Opcode) (fc : FnCode) (plat : Platform) :
    lookupGrain p reg op fc plat = lookupGrain Params.default reg op fc plat := by
  simp only [lookupGrain, foldKey, isHardwareInternal_default h]

end

/-! ### The groups, by what gates them -/

/-- The decision on an instruction's word under the default tables, in terms of its opcode and function code. -/
theorem decide151_encode {p : Params} (h : DefaultTables p) (i : Instr) (reg : Registry) (active : Platform) (pal fpe : Bool) :
    decide151 p reg active pal fpe (encode i) =
      if route Params.default i.opcode = .unknown ∨ route Params.default i.opcode = .vector ∨
          formatOf Params.default i.opcode = .unknown ∨ formatOf Params.default i.opcode = .vector then
        .trap .illegalInstruction
      else if isHardwareInternal Params.default i.opcode && p.hwintRequiresPal && !pal then .trap .illegalInstruction
      else
        match lookupGrain p reg i.opcode (extractFc Params.default (encode i))
            (if isHardwareInternal Params.default i.opcode then Platform.base else active) with
        | none => .trap .illegalInstruction
        | some g =>
          if isFpOpcode Params.default i.opcode && !fpe then .trap .fpDisabled
          else .out
            { grain := g, opcode := i.opcode, fc := extractFc Params.default (encode i),
              fmt := formatOf Params.default i.opcode, unit := route Params.default i.opcode,
              hwInternal := isHardwareInternal Params.default i.opcode } := by
  simp only [decide151, opcodeOf_encode, resolveGrain, queryPlatform, route_default h, isHardwareInternal_default h,
    isFpOpcode_default h, formatOf_default h, extractFc_default h] <;> rfl

theorem decodesReserved_of {i : Instr} (h : route Params.default i.opcode = .unknown ∨ route Params.default i.opcode = .vector) :
    DecodesReserved i (encode i) := by
  intro s x hd hb hw
  exact exec_trapped hb hw (by rw [decide151_encode hd, if_pos (by tauto)])

section
variable {i : Instr} {fc : FnCode} {fmt : FormatClass} {unit : ExecUnit}
  (hc : extractFc Params.default (encode i) = fc) (hf : formatOf Params.default i.opcode = fmt)
  (hu : route Params.default i.opcode = unit)
include hc hu hf

theorem decodesPlain_of (h : ¬ (unit = .unknown ∨ unit = .vector ∨ fmt = .unknown ∨ fmt = .vector))
    (hi : isHardwareInternal Params.default i.opcode = false) (hp : isFpOpcode Params.default i.opcode = false) :
    DecodesPlain i i.opcode fc fmt unit (encode i) := by
  subst hc hf hu
  intro s x hd hb
  have key := decide151_encode hd i s.registry s.activePlatform x.palMode x.fpe
  simp only [if_neg h, hi, hp, Bool.false_and, Bool.false_eq_true, if_false] at key
  exact ⟨fun g hg => exec_delivered hb (by rw [key, hg]), fun hg hw => exec_trapped hb hw (by rw [key, hg])⟩

theorem decodesFp_of (h : ¬ (unit = .unknown ∨ unit = .vector ∨ fmt = .unknown ∨ fmt = .vector))
    (hi : isHardwareInternal Params.default i.opcode = false) (hp : isFpOpcode Params.default i.opcode = true) :
    DecodesFp i i.opcode fc fmt unit (encode i) := by
  subst hc hf hu
  intro s x hd hb
  have key := decide151_encode hd i s.registry s.activePlatform x.palMode x.fpe
  simp only [if_neg h, hi, hp, Bool.false_and, Bool.false_eq_true, if_false, Bool.true_and, CpuState.fpe] at key
  refine ⟨fun g hg => ⟨fun he => exec_delivered hb ?_, fun he hw => exec_trapped hb hw ?_⟩,
    fun hg hw => exec_trapped hb hw ?_⟩
  · rw [CpuState.fpe, key, hg]; simp only [he, Bool.not_true, Bool.false_eq_true, if_false]
  · rw [CpuState.fpe, key, hg]; simp only [he, Bool.not_false, if_true]
  · rw [CpuState.fpe, key, hg]

end

theorem decodesHw_of {i : Instr} {fc : FnCode} (hc : extractFc Params.default (encode i) = fc)
    (hf : formatOf Params.default i.opcode = .pal) (hu : route Params.default i.opcode = .hwInternal)
    (hi : isHardwareInternal Params.default i.opcode = true) (hp : isFpOpcode Params.default i.opcode = false) :
    DecodesHw i i.opcode fc (encode i) := by
  subst hc
  intro s x hd hb
  have key := decide151_encode hd i s.registry s.activePlatform x.palMode x.fpe
  simp only [hf, hu, hi, hp, Bool.true_and, Bool.false_and, Bool.false_eq_true, if_false, if_true, reduceCtorEq, or_self] at key
  intro allowed
  have hg' : ¬ allowed ↔ (s.params.hwintRequiresPal && !x.palMode) = true := by simp [allowed]
  refine ⟨fun g hm hg => exec_delivered hb ?_, fun hm hg hw => exec_trapped hb hw ?_, fun hm hw => exec_trapped hb hw ?_⟩
  · rw [key, hg, if_neg (by rw [← hg']; exact not_not.mpr hm)]
  · rw [key, hg, if_neg (by rw [← hg']; exact not_not.mpr hm)]
  · rw [key, if_pos (hg'.mp hm)]

end Sys2Proof.Laws
end

