-- ==== Sys2Proof/Laws/Step.lean ====
section
/-! SUPPORT. Everything one step can do to one CPU's event state, said once: `CpuStep` lists the ways, and `step_cpu` says
there is no other. -/

namespace Sys2Proof.Laws

open Sys2Proof.Machine

/-- What an operation may do to the event state of CPU c. -/
inductive CpuStep (p : Params) (c : Nat) : Op → CpuState → CpuState → Prop
  | same (op : Op) (x : CpuState) : CpuStep p c op x x
  /-- `i` is the instruction `w` decodes to. -/
  | decodeTrap (w : Word) (pc : Quad) (i : Instr) (cls : TrapClass) (x : CpuState)
      (h : cls = .illegalInstruction ∨ cls = .fpDisabled) :
      CpuStep p c (.decode c w pc) x (raiseTrap p x cls pc ((encode i).setWidth 64) ⟨false, false, false⟩)
  | translation (r : TranslationResult) (i : Bool) (va : Quad) (w : Bool) (x : CpuState) :
      CpuStep p c (.reportTranslationFault c r i va w) x
        (raiseTrap p x (mapTranslationFault r i) va ((TranslationResult.code r).setWidth 64)
          ⟨w && !i, i, decide (r = .unaligned)⟩)
  | arith (bits : Quad) (x : CpuState) :
      CpuStep p c (.reportArith c bits) x (raiseTrap p x .arithmetic 0 (arithWord p bits) ⟨false, false, false⟩)
  | machineCheck (info : Quad) (x : CpuState) :
      CpuStep p c (.raiseMachineCheck c info) x (raiseTrap p x .machineCheck 0 info ⟨false, false, false⟩)
  | post (e : PendingEvent) (x : CpuState) (h : e.kind ≠ .none) : CpuStep p c (.setPendingEvent c e) x (postEvent p x e)
  | consume (x : CpuState) (h : x.halted = false) :
      CpuStep p c (.consumeEvent c) x (consume (x.arbiterLoads c) (arbitrate p x))
  | apply (r : PalResult) (o : List PipelineEffect) (x : CpuState) (h : x.halted = false) :
      CpuStep p c (.applyPalResult c r o) x (applyToCpu x r)
  | sendData (src dst : Nat) (d : Quad) (x : CpuState) :
      CpuStep p c (.sendIPI src dst d) x
        { x with
          ipiData := if c = dst then d else x.ipiData
          busy := if c = src then some (.sendRequest dst) else x.busy }
  | sendRequest (src dst : Nat) (x : CpuState) :
      CpuStep p c (.continueIPI src) x
        { x with
          ipiRequest := decide (c = dst) || x.ipiRequest
          busy := if c = src then some (.sendInterrupt dst) else x.busy }
  | sendInterrupt (src dst : Nat) (x : CpuState) :
      CpuStep p c (.continueIPI src) x
        { x with
          irqPending := if c = dst then x.irqPending ||| ipiBit p else x.irqPending
          busy := if c = src then none else x.busy }
  | ackTake (x : CpuState) :
      CpuStep p c (.ackIPI c) x
        { x with
          ipiRequest := false
          ipiSeen := observeIpi x.ipiSeen c x.ipiRequest
          busy := some (.ackInterrupt x.ipiRequest) }
  | ackClear (was : Bool) (x : CpuState) :
      CpuStep p c (.continueIPI c) x { clearIpiInterrupt p x with busy := some (.ackData was) }
  | ackRead (x : CpuState) : CpuStep p c (.continueIPI c) x { x with busy := none }
  /-- An acquire of IPI_REQUEST, whose only trace is the model's record of it (R96; log 12). -/
  | observe (op : Op) (q : Nat) (x : CpuState)
      (h : op = .readF c .ipiRequest ∨ op = .hasPendingEvent c ∨ op = .eventPendingState c) :
      CpuStep p c op x (x.acquireIpi q)
  | write (f : Field) (v : Quad) (x y : CpuState) (h : writeField p x f v = some y) : CpuStep p c (.writeF c f v) x y
  | irqSet (n : BitVec 5) (x : CpuState) :
      CpuStep p c (.irqSet c n) x { x with irqPending := x.irqPending ||| 1#32 <<< n.toNat }
  | irqClear (n : BitVec 5) (x : CpuState) :
      CpuStep p c (.irqClear c n) x { x with irqPending := x.irqPending &&& ~~~(1#32 <<< n.toNat) }
  | astUpdate (a b : BitVec 16) (x : CpuState) :
      CpuStep p c (.astUpdate c a b) x { x with astState := (x.astState ||| a) &&& ~~~b }
  | resetOne (x : CpuState) : CpuStep p c (.resetCpu c) x (CpuState.reset p)
  | resetAll (x : CpuState) : CpuStep p c .releaseReset x (CpuState.reset p)

/-- The operation writes no CPU's state. -/
theorem cpuStep_same {p : Params} {c : Nat} {op : Op} {t : State} {x : CpuState} (h : t.cpu? c = some x) :
    ∃ y, t.cpu? c = some y ∧ CpuStep p c op x y := ⟨x, h, .same op x⟩

/-- One CPU's state is replaced: the others are as before. -/
theorem cpuStep_setCpu {p : Params} {c d : Nat} {op : Op} {s : State} {x x' y' : CpuState} (hx : s.cpu? c = some x)
    (hd : s.cpu? d = some x') (h : c = d → CpuStep p c op x' y') :
    ∃ y, (s.setCpu d y').cpu? c = some y ∧ CpuStep p c op x y := by
  by_cases hc : c = d
  · subst hc
    obtain rfl : x = x' := by simpa [hx] using hd
    exact ⟨y', cpu?_setCpu_same s hx, h rfl⟩
  · exact ⟨x, by rw [cpu?_setCpu_other s hc, hx], .same op x⟩

/-- The IPI lines, which write one CPU's field and another's `busy` (R450). -/
theorem cpu?_setCpu_setBusy {s : State} {c d b : Nat} {x xb : CpuState} {y : CpuState} {l : Option IpiLine}
    (hc : s.cpu? c = some x) (hb : s.cpu? b = some xb) :
    ((s.setCpu d y).setBusy b l).cpu? c =
      some { (if c = d then y else x) with busy := if c = b then l else (if c = d then y else x).busy } := by
  have hb' : (s.setCpu d y).cpu? b = some (if b = d then y else xb) := by
    rw [cpu?_setCpu]; split
    · rename_i e; subst e; simp [hb]
    · exact hb
  have hc' : (s.setCpu d y).cpu? c = some (if c = d then y else x) := by
    rw [cpu?_setCpu]; split
    · rename_i e; subst e; simp [hc]
    · exact hc
  rw [setBusy_eq hb', cpu?_setCpu]
  by_cases h1 : c = b
  · subst h1; simp_all
  · simp [h1, hc']

theorem runWord_cpu {d : Nat} {w : Word} {pc : Quad} {s t : State} {c : Nat} {x : CpuState} (hx : s.cpu? c = some x)
    (h : runWord d w pc s = .next t) : ∃ y, t.cpu? c = some y ∧ CpuStep s.params c (.decode d w pc) x y := by
  rw [runWord, exec_eq_decodeStage] at h
  obtain ⟨x', hx', -, -, -, ⟨o, -, rfl⟩ | ⟨cls, hd, rfl⟩⟩ := decodeStage_next h
  · rw [touchBank_with_current, touchBank_of_cpu? hx]; exact cpuStep_same hx
  · rw [touchBank_with_current, touchBank_of_cpu? hx] at hx' ⊢
    exact cpuStep_setCpu (s := { s with current := ⟨d, pc⟩ }) hx hx' fun e => by
      subst e; exact .decodeTrap _ _ _ _ _ (decide151_trap hd)

/-- The operations that build the bank anew, shut it down, or de-register CPU c (R30, R503, R504): after them there is no
`S[c]`, or a new one. -/
abbrev Unmakes (c : Nat) (op : Op) : Prop := op = .initBank ∨ op = .shutdownBank ∨ op = .deregisterCpu c

/-- Everything an operation can do to a CPU of the bank, unless the operation unmakes that CPU (R30, R53, R452). -/
theorem perform_cpu {a : Agent} {op : Op} {s t : State} {c : Nat} {x : CpuState} (hx : s.cpu? c = some x)
    (h : perform a op s = .next t) :
    Unmakes c op ∨ ∃ y, t.cpu? c = some y ∧ CpuStep s.params c op x y := by
  have ht := touchBank_of_cpu? hx
  cases op with
  | initBank => exact .inl (.inl rfl)
  | shutdownBank => exact .inl (.inr (.inl rfl))
  | decode d w pc => exact .inr (runWord_cpu hx h)
  | resolve w =>
    simp only [perform, resolve, whileSealed] at h
    split at h <;> cases h
    exact .inr (cpuStep_same hx)
  | lookup o fc plat =>
    simp only [perform, lookup, whileSealed] at h
    split at h <;> cases h
    exact .inr (cpuStep_same hx)
  | register o fc plat g =>
    simp only [perform, register, whileUnsealed] at h
    split at h <;> cases h
    exact .inr (cpuStep_same hx)
  | setActivePlatform plat =>
    simp only [perform, setActivePlatform, whileUnsealed] at h
    split at h <;> cases h
    exact .inr (cpuStep_same hx)
  | route _ | grainCount | computeEligibility _ _ _ _ | mapITranslationFault _ | mapDTranslationFault _
  | mapTranslationFault _ _ | decodeMMStat _ _ | classifyArith _ | isRecoverableFault _ | buildPal _ | globalReset =>
    cases h; exact .inr (cpuStep_same hx)
  | reportTranslationFault d r i va w =>
    simp only [perform, reportTranslationFault] at h
    obtain ⟨x', hx', h⟩ := withCpu_next h
    rw [ht] at hx' h
    split at h <;> cases h
    · exact .inr (cpuStep_same hx)
    · exact .inr (cpuStep_setCpu hx hx' fun e => by subst e; exact .translation _ _ _ _ _)
  | reportArith d bits =>
    simp only [perform, reportArith] at h
    obtain ⟨x', hx', h⟩ := withCpu_next h
    rw [ht] at hx' h
    split at h <;> cases h
    · exact .inr (cpuStep_setCpu hx hx' fun e => by subst e; exact .arith _ _)
    · exact .inr (cpuStep_same hx)
  | hasPendingEvent d =>
    simp only [perform, queryPending] at h
    obtain ⟨x', hx', h⟩ := withCpu_next h
    rw [ht] at hx' h
    cases h; exact .inr (cpuStep_setCpu hx hx' fun e => by subst e; exact .observe _ _ _ (.inr (.inl rfl)))
  | eventPendingState d =>
    simp only [perform, queryPending] at h
    obtain ⟨x', hx', h⟩ := withCpu_next h
    rw [ht] at hx' h
    cases h; exact .inr (cpuStep_setCpu hx hx' fun e => by subst e; exact .observe _ _ _ (.inr (.inr rfl)))
  | captureFaultInfo d _ | hasPendingTranslationFault d _ | readSlot d =>
    simp only [perform, captureFaultInfo, readSlot] at h
    obtain ⟨x', hx', h⟩ := withCpu_next h
    rw [ht] at hx' h
    cases h; exact .inr (cpuStep_same hx)
  | raiseMachineCheck d info =>
    simp only [perform, raiseMachineCheck] at h
    obtain ⟨x', hx', h⟩ := withCpu_next h
    rw [ht] at hx' h
    cases h; exact .inr (cpuStep_setCpu hx hx' fun e => by subst e; exact .machineCheck _ _)
  | setPendingEvent d e =>
    simp only [perform, setPendingEvent] at h
    split at h
    · cases h
    · rename_i he
      obtain ⟨x', hx', h⟩ := withCpu_next h
      rw [ht] at hx' h
      cases h; exact .inr (cpuStep_setCpu hx hx' fun q => by subst q; exact .post _ _ he)
  | consumeEvent d =>
    simp only [perform, consumeEvent] at h
    obtain ⟨x', hx', h⟩ := withCpu_next h
    rw [ht] at hx' h
    split at h
    · cases h
    · rename_i hh
      cases h; exact .inr (cpuStep_setCpu hx hx' fun e => by subst e; exact .consume _ (by simpa using hh))
  | applyPalResult d r o =>
    simp only [perform, applyPalResult] at h
    obtain ⟨x', hx', h⟩ := withCpu_next h
    rw [ht] at hx' h
    split at h
    · cases h
    · rename_i hh
      cases h; exact .inr (cpuStep_setCpu hx hx' fun e => by subst e; exact .apply _ _ _ (by simpa using hh))
  | sendIPI src dst data =>
    simp only [perform, sendIPI] at h
    obtain ⟨xs, hs, h⟩ := withCpu_next h
    obtain ⟨xd, hd, h⟩ := withCpu_next h
    rw [ht] at hs
    simp only [ht] at hd h
    cases h
    refine .inr ⟨_, cpu?_setCpu_setBusy hx hs, ?_⟩
    convert CpuStep.sendData src dst data x using 1
    by_cases e : c = dst
    · subst e; obtain rfl : x = xd := by simpa [hx] using hd
      simp
    · simp [e]
  | continueIPI d =>
    simp only [perform, continueIPI] at h
    obtain ⟨xs, hs, h⟩ := withCpu_next h
    rw [ht] at hs h
    split at h
    · cases h
    · rename_i dst hb
      obtain ⟨xd, hd, h⟩ := withCpu_next h
      rw [ht] at hd h
      cases h
      refine .inr ⟨_, cpu?_setCpu_setBusy hx hs, ?_⟩
      convert CpuStep.sendRequest d dst x using 1
      by_cases e : c = dst
      · subst e; obtain rfl : x = xd := by simpa [hx] using hd
        simp [setIpiRequest]
      · simp [e]
    · rename_i dst hb
      obtain ⟨xd, hd, h⟩ := withCpu_next h
      rw [ht] at hd h
      cases h
      refine .inr ⟨_, cpu?_setCpu_setBusy hx hs, ?_⟩
      convert CpuStep.sendInterrupt d dst x using 1
      by_cases e : c = dst
      · subst e; obtain rfl : x = xd := by simpa [hx] using hd
        simp [setIpiInterrupt, fetchOr]
      · simp [e]
    · cases h; exact .inr (cpuStep_setCpu hx hs fun e => by subst e; exact .ackClear _ _)
    · cases h; exact .inr (cpuStep_setCpu hx hs fun e => by subst e; exact .ackRead _)
  | ackIPI d =>
    simp only [perform, ackIPI] at h
    obtain ⟨x', hx', h⟩ := withCpu_next h
    rw [ht] at hx' h
    cases h; exact .inr (cpuStep_setCpu hx hx' fun e => by subst e; exact .ackTake _)
  | readF d f =>
    cases a with
    | cpu reader =>
      replace h : readF reader d f s = .next t := h
      unfold readF at h
      obtain ⟨x', hx', h⟩ := withCpu_next h
      rw [ht] at hx' h
      cases f
      case ipiRequest => cases h; exact .inr (cpuStep_setCpu hx hx' fun e => by subst e; exact .observe _ _ _ (.inl rfl))
      case ipiData => dsimp only at h; split at h <;> cases h <;> exact .inr (cpuStep_same hx)
      all_goals cases h; exact .inr (cpuStep_same hx)
    | interruptSource | configuration | platform => cases h
  | writeF d f v =>
    simp only [perform, writeF] at h
    obtain ⟨x', hx', h⟩ := withCpu_next h
    rw [ht] at hx' h
    split at h <;> cases h
    exact .inr (cpuStep_setCpu hx hx' fun e => by subst e; exact .write _ _ _ _ (by assumption))
  | irqSet d n =>
    simp only [perform, irqSet] at h
    obtain ⟨x', hx', h⟩ := withCpu_next h
    rw [ht] at hx' h
    cases h; exact .inr (cpuStep_setCpu hx hx' fun e => by subst e; exact .irqSet _ _)
  | irqClear d n =>
    simp only [perform, irqClear] at h
    obtain ⟨x', hx', h⟩ := withCpu_next h
    rw [ht] at hx' h
    cases h; exact .inr (cpuStep_setCpu hx hx' fun e => by subst e; exact .irqClear _ _)
  | astUpdate d m k =>
    simp only [perform, astUpdate] at h
    obtain ⟨x', hx', h⟩ := withCpu_next h
    rw [ht] at hx' h
    cases h; exact .inr (cpuStep_setCpu hx hx' fun e => by subst e; exact .astUpdate _ _ _)
  | resetCpu d =>
    simp only [perform, resetCpu] at h
    obtain ⟨x', hx', h⟩ := withCpu_next h
    rw [ht] at hx' h
    cases h; exact .inr (cpuStep_setCpu hx hx' fun e => by subst e; exact .resetOne _)
  | releaseReset =>
    cases h
    refine .inr ⟨CpuState.reset s.params, ?_, .resetAll _⟩
    cases hb : s.bank with
    | none => simp [State.cpu?, hb] at hx
    | some cpus =>
      have hx' : cpus[c]?.join = some x := by simpa [State.cpu?, hb] using hx
      rcases hc : cpus[c]? with _ | _ | _ <;> simp_all [State.cpu?]
  | deregisterCpu d =>
    simp only [perform, deregisterCpu] at h
    obtain ⟨x', hx', h⟩ := withCpu_next h
    rw [ht] at hx' h
    cases h
    by_cases hc : c = d
    · subst hc; exact .inl (.inr (.inr rfl))
    · refine .inr (cpuStep_same ?_)
      cases hb : s.bank with
      | none => simp [State.cpu?, hb] at hx
      | some cpus => simpa [State.cpu?, hb, List.getElem?_set, Ne.symm hc] using hx

/-- What a step does: nothing but clearing the outputs, or the oldest request is admitted and performed. -/
theorem step_next {s t : State} (h : step s = .next t) :
    (s.requests = [] ∧ t = s.emit []) ∨
    ∃ r rest, s.requests = r :: rest ∧ turnedAway (s.popRequest rest) r = none ∧ perform r.agent r.op (s.popRequest rest) = .next t := by
  unfold step at h
  split at h
  · exact .inl ⟨by assumption, by cases h; rfl⟩
  · rename_i r rest hr
    refine .inr ⟨r, rest, hr, ?_⟩
    unfold serve at h
    split at h
    · cases h
    · exact ⟨by assumption, h⟩

/-- A permitted request of a CPU of the bank that is in the middle of nothing is performed. -/
theorem turnedAway_cpu {s : State} {a : Nat} {op : Op} {x : CpuState} (hp : permitted (.cpu a) op = true)
    (hx : s.touchBank.cpu? a = some x) (hb : x.busy = none) : turnedAway s ⟨.cpu a, op⟩ = none := by simp [turnedAway, hp, hx, hb]

/-- A step that serves an admitted request performs it. -/
theorem step_of_turnedAway {s : State} {r : Request} {rest : List Request} (hr : s.requests = r :: rest)
    (h : turnedAway (s.popRequest rest) r = none) : step s = perform r.agent r.op (s.popRequest rest) := by
  simp [step, hr, serve, h]

/-- A request that is performed was permitted (R13, R76). -/
theorem permitted_of_turnedAway {s : State} {r : Request} (h : turnedAway s r = none) : permitted r.agent r.op = true := by
  unfold turnedAway at h
  split at h
  · cases h
  · simp_all

end Sys2Proof.Laws
end

