-- ==== Sys2Proof/Laws/Ipi.lean ====
section
/-! SUPPORT. The lines of the inter-processor operations, one lemma each, and what an acquire leaves in `ipiSeen`. -/

namespace Sys2Proof.Laws

open Sys2Proof.Machine

theorem sendIPI_next {s : State} {src dst : Nat} {xs xd : CpuState} (hs : s.touchBank.cpu? src = some xs)
    (hd : s.touchBank.cpu? dst = some xd) (data : Quad) :
    sendIPI src dst data s =
      .next ((s.touchBank.setCpu dst { xd with ipiData := data }).setBusy src (some (.sendRequest dst))) := by
  have hd' : s.touchBank.touchBank.cpu? dst = some xd := by rw [touchBank_of_cpu? hs]; exact hd
  rw [sendIPI, withCpu_some hs, withCpu_some hd', touchBank_of_cpu? hs]

theorem continueIPI_sendRequest {s : State} {c dst : Nat} {x y : CpuState} (hx : s.cpu? c = some x)
    (hb : x.busy = some (.sendRequest dst)) (hy : s.cpu? dst = some y) :
    continueIPI c s = .next ((s.setCpu dst (setIpiRequest y)).setBusy c (some (.sendInterrupt dst))) := by
  have ht := touchBank_of_cpu? hx
  rw [continueIPI, withCpu_some (ht.symm ▸ hx), ht]
  simp only [hb]
  rw [withCpu_some (ht.symm ▸ hy), ht]

theorem continueIPI_sendInterrupt {s : State} {c dst : Nat} {x y : CpuState} (hx : s.cpu? c = some x)
    (hb : x.busy = some (.sendInterrupt dst)) (hy : s.cpu? dst = some y) :
    continueIPI c s = .next ((s.setCpu dst (setIpiInterrupt s.params y)).setBusy c none) := by
  have ht := touchBank_of_cpu? hx
  rw [continueIPI, withCpu_some (ht.symm ▸ hx), ht]
  simp only [hb]
  rw [withCpu_some (ht.symm ▸ hy), ht]

theorem continueIPI_ackInterrupt {s : State} {c : Nat} {x : CpuState} {was : Bool} (hx : s.cpu? c = some x)
    (hb : x.busy = some (.ackInterrupt was)) :
    continueIPI c s = .next (s.setCpu c { clearIpiInterrupt s.params x with busy := some (.ackData was) }) := by
  have ht := touchBank_of_cpu? hx
  rw [continueIPI, withCpu_some (ht.symm ▸ hx), ht]
  simp only [hb]

theorem continueIPI_ackData {s : State} {c : Nat} {x : CpuState} {was : Bool} (hx : s.cpu? c = some x)
    (hb : x.busy = some (.ackData was)) :
    continueIPI c s =
      .next ((s.setCpu c { x with busy := none }).emit [.ipiAck was (if was then x.ipiData else 0)]) := by
  have ht := touchBank_of_cpu? hx
  rw [continueIPI, withCpu_some (ht.symm ▸ hx), ht]
  simp only [hb]

/-- A query of the pending sources answers, and records the acquire it is (R96, R432). -/
theorem queryPending_next {s : State} {c : Nat} {x : CpuState} (hx : s.touchBank.cpu? c = some x)
    (answer : Params → CpuState → Output) :
    queryPending c answer s = .next ((s.touchBank.setCpu c (x.acquireIpi c)).emit [answer s.params x]) := by
  rw [queryPending, withCpu_some hx, touchBank_params]

/-- Consuming the event the arbiter picks, on a running CPU (R433). -/
theorem consumeEvent_next {s : State} {c : Nat} {x : CpuState} (hx : s.touchBank.cpu? c = some x) (hh : x.halted = false) :
    consumeEvent c s = .next ((s.touchBank.setCpu c (consume (x.arbiterLoads c) (arbitrate s.params x))).emit
      [.event (arbitrate s.params x)]) := by
  simp only [consumeEvent, withCpu_some hx, hh, Bool.false_eq_true, if_false, touchBank_params]

/-- After an acquire the reader is among those that have observed a request exactly if it was, or observes one now (R96,
R99). -/
theorem mem_observeIpi_self (seen : List Nat) (r : Nat) (saw : Bool) :
    r ∈ observeIpi seen r saw ↔ saw = true ∨ r ∈ seen := by
  unfold observeIpi; split <;> simp_all

/-- An acquire by one CPU settles nothing for another. -/
theorem mem_observeIpi_other (seen : List Nat) {r q : Nat} (saw : Bool) (h : q ≠ r) :
    q ∈ observeIpi seen r saw ↔ q ∈ seen := by unfold observeIpi; split <;> simp [h]

/-- No CPU is recorded twice. -/
theorem observeIpi_nodup {seen : List Nat} (h : seen.Nodup) (r : Nat) (saw : Bool) : (observeIpi seen r saw).Nodup := by
  unfold observeIpi; split <;> simp_all

end Sys2Proof.Laws
end

