-- ==== Sys2Proof/Laws/Pal.lean ====
section
/-! SUPPORT. The PalResult protocol: the effect bits, the ASN field, and the orders the actions can come in. -/

namespace Sys2Proof.Laws

open Sys2Proof.Machine

/-- The bits above 7 are cut off, and none of them names an effect (R342, R358). -/
@[simp] theorem hasEffect_effectBits (m : BitVec 32) (e : PipelineEffect) :
    hasEffect (effectBits m) e = m.getLsbD e.bit := by
  cases e <;> simp [hasEffect, effectBits, PipelineEffect.bit]

/-- Writing the ASN field leaves every bit outside it (R354). -/
theorem pctxWithAsn_other (v : Quad) (a : BitVec 8) {n : Nat} (h : ¬ (39 ≤ n ∧ n ≤ 46)) :
    (pctxWithAsn v a).getLsbD n = v.getLsbD n := by
  by_cases hn : n < 64
  · have h1 : (0x00007F8000000000#64).getLsbD n = false := by
      have : ∀ n < 64, ¬ (39 ≤ n ∧ n ≤ 46) → (0x00007F8000000000#64).getLsbD n = false := by decide
      exact this n hn h
    simp only [pctxWithAsn, BitVec.getLsbD_or, BitVec.getLsbD_and, BitVec.getLsbD_shiftLeft, BitVec.getLsbD_not, hn,
      BitVec.getLsbD_setWidth, h1]
    by_cases h39 : n < 39
    · simp [h39]
    · have : a.getLsbD (n - 39) = false := BitVec.getLsbD_of_ge _ _ (by omega)
      simp [this]
  · rw [BitVec.getLsbD_of_ge _ _ (by omega), BitVec.getLsbD_of_ge _ _ (by omega)]

/-- The ASN field written is the ASN field read (R354, R37). -/
theorem pctxWithAsn_asn (v : Quad) (a : BitVec 8) : (pctxWithAsn v a).extractLsb' 39 8 = a := by
  apply BitVec.eq_of_getLsbD_eq; intro k hk
  have h1 : (0x00007F8000000000#64).getLsbD (39 + k) = true := by
    have : ∀ k < 8, (0x00007F8000000000#64).getLsbD (39 + k) = true := by decide
    exact this k hk
  simp only [BitVec.getLsbD_extractLsb', hk, decide_true, Bool.true_and, pctxWithAsn, BitVec.getLsbD_or,
    BitVec.getLsbD_and, BitVec.getLsbD_shiftLeft, BitVec.getLsbD_not, BitVec.getLsbD_setWidth, h1]
  simp [show 39 + k < 64 by omega, show k < 64 by omega]

/-- A mask with one bit. -/
theorem getLsbD_or_bit {k : Nat} (hk : k < 32) (b : BitVec 32) (n : Nat) :
    (b ||| 1#32 <<< k).getLsbD n = (decide (n = k) || b.getLsbD n) := by
  rw [BitVec.getLsbD_or, BitVec.getLsbD_shiftLeft]
  by_cases h : n = k
  · subst h; simp [hk]
  · rcases Nat.lt_or_ge n k with hlt | hge
    · simp [h, hlt]
    · have : n - k ≠ 0 := by omega
      simp [h, this, BitVec.getLsbD_one]

/-! ### The orders (R352) -/

/-- Every effect has a place in the reference order. -/
theorem mem_referenceEffects (e : PipelineEffect) : e ∈ referenceEffects := by cases e <;> decide

theorem isHalt_iff (e : PipelineEffect) : e.isHalt = true ↔ e = .halt ∨ e = .notifyHalt := by cases e <;> decide

/-- In a list without repeats, what stands before an element is what `takeWhile` takes. -/
theorem takeWhile_split {l1 l2 : List PipelineEffect} {a : PipelineEffect} (h : (l1 ++ a :: l2).Nodup) :
    (l1 ++ a :: l2).takeWhile (fun e => e != a) = l1 := by
  have ha : a ∉ l1 := fun hm => by
    rw [List.nodup_append] at h
    exact h.2.2 a hm a (by simp) rfl
  clear h
  induction l1 with
  | nil => simp
  | cons b l1 ih =>
    have hb : b ≠ a := fun e => ha (by simp [e])
    have ha' : a ∉ l1 := fun hm => ha (by simp [hm])
    simp [hb, ih ha']

/-- Nothing but halt effects comes after the first of them. -/
theorem dropWhile_isHalt (l : List PipelineEffect) :
    (l.dropWhile (fun e => !e.isHalt)).all PipelineEffect.isHalt = true ↔
      ∀ l1 e l2, l = l1 ++ e :: l2 → e.isHalt = true → ∀ e' ∈ l2, e'.isHalt = true := by
  induction l with
  | nil => simp
  | cons b l ih =>
    by_cases hb : b.isHalt = true
    · simp only [List.dropWhile_cons, hb, Bool.not_true, Bool.false_eq_true, if_false, List.all_cons, Bool.true_and,
        List.all_eq_true]
      constructor
      · rintro h l1 e l2 hl - e' he'
        rcases l1 with _ | ⟨a, l1⟩
        · obtain ⟨-, rfl⟩ := by simpa using hl
          exact h e' he'
        · obtain ⟨-, rfl⟩ := by simpa using hl
          exact h e' (by simp [he'])
      · exact fun h => h [] b l rfl hb
    · simp only [List.dropWhile_cons, hb, Bool.not_false, if_true, ih]
      constructor
      · rintro h l1 e l2 hl he
        rcases l1 with _ | ⟨a, l1⟩
        · obtain ⟨rfl, -⟩ := by simpa using hl
          exact absurd he hb
        · obtain ⟨-, rfl⟩ := by simpa using hl
          exact h l1 e l2 rfl he
      · rintro h l1 e l2 rfl
        exact h (b :: l1) e l2 rfl

/-- What it is for an order to be allowed, in R352's words. -/
theorem allowedOrder_iff {m : BitVec 32} {l : List PipelineEffect} :
    allowedOrder m l = true ↔ l.Nodup ∧ (∀ e, e ∈ l ↔ hasEffect m e = true) ∧
      (∀ l1 e l2, l = l1 ++ e :: l2 → e.isHalt = true → ∀ e' ∈ l2, e'.isHalt = true) ∧
      ∀ l1 l2, l = l1 ++ PipelineEffect.tlbModified :: l2 → .pipelineFlush ∈ l → .pipelineFlush ∈ l1 := by
  rw [← dropWhile_isHalt]
  simp only [allowedOrder, Bool.and_eq_true, decide_eq_true_eq, List.all_eq_true (p := hasEffect m),
    List.all_eq_true (l := referenceEffects), List.contains_iff_mem, Bool.or_eq_true,
    Bool.not_eq_true', and_assoc, Bool.and_eq_false_iff]
  constructor
  · rintro ⟨hn, h1, h2, hh, h3⟩
    have hm : ∀ e, e ∈ l ↔ hasEffect m e = true := fun e => by
      refine ⟨h1 e, fun h => ?_⟩
      rcases h2 e (mem_referenceEffects e) with h' | h'
      · rw [h] at h'; cases h'
      · exact h'
    refine ⟨hn, hm, hh, ?_⟩
    rintro l1 l2 rfl hf
    rw [takeWhile_split hn] at h3
    rcases h3 with (h3 | h3) | h3
    · rw [(hm _).mp hf] at h3; cases h3
    · rw [(hm .tlbModified).mp (by simp)] at h3; cases h3
    · exact h3
  · rintro ⟨hn, hm, hh, h3⟩
    refine ⟨hn, fun e he => (hm e).mp he, fun e _ => ?_, hh, ?_⟩
    · cases h : hasEffect m e
      · exact .inl rfl
      · exact .inr ((hm e).mpr h)
    · cases hf : hasEffect m .pipelineFlush
      · exact .inl (.inl rfl)
      cases ht : hasEffect m .tlbModified
      · exact .inl (.inr rfl)
      right
      have hf' := (hm .pipelineFlush).mpr hf
      obtain ⟨l1, l2, rfl⟩ := List.append_of_mem ((hm .tlbModified).mpr ht)
      rw [takeWhile_split hn]
      exact h3 l1 l2 rfl hf'

/-- The reference order is allowed (R352). -/
theorem referenceOrder_allowed (m : BitVec 32) : allowedOrder m (referenceOrder m) = true := by
  simp only [referenceOrder, referenceEffects, List.filter]
  cases h1 : hasEffect m .memoryBarrier <;> cases h2 : hasEffect m .drainWriteBuffers <;>
    cases h3 : hasEffect m .pipelineFlush <;> cases h4 : hasEffect m .tlbModified <;>
      cases h5 : hasEffect m .contextSwitch <;> cases h6 : hasEffect m .iplChanged <;>
        cases h7 : hasEffect m .halt <;> cases h8 : hasEffect m .notifyHalt <;>
          simp [allowedOrder, referenceEffects, PipelineEffect.isHalt, h1, h2, h3, h4, h5, h6, h7, h8]

/-- The order the actions come in is allowed, whatever was asked for, and is the one asked for if that is (R352). -/
theorem effectOrder_allowed (m : BitVec 32) (l : List PipelineEffect) : allowedOrder m (effectOrder m l) = true := by
  unfold effectOrder
  split
  · assumption
  · exact referenceOrder_allowed m

/-- Everything applying a PalResult to a running CPU does (R351): its effects and their order, and the vector cut to VEC_W
bits where it is handed on (R63). -/
theorem applyPalResult_next {s : State} {c : Nat} {x : CpuState} (hx : s.touchBank.cpu? c = some x) (hh : x.halted = false)
    (r : PalResult) (o : List PipelineEffect) :
    applyPalResult c r o s = .next ((s.touchBank.setCpu c (applyToCpu x r)).emit
      (.deliver (deliverOf (r.cut s.params)) ::
        (effectOrder (effectBits r.sideEffects) o).map (fun e => .action e (r.cut s.params)))) := by
  simp only [applyPalResult, withCpu_some hx, hh, Bool.false_eq_true, if_false, touchBank_params, applyToCpu_cut, actionsOf_cut]
  rfl

theorem effectOrder_of_allowed {m : BitVec 32} {l : List PipelineEffect} (h : allowedOrder m l = true) :
    effectOrder m l = l := by simp [effectOrder, h]

end Sys2Proof.Laws
end

