-- ==== Sys2Proof/Laws/PerInstr.lean ====
section
/-! SUPPORT. The per-instruction families: one lemma per constructor of Instr. -/

namespace Sys2Proof.Laws

/-- The opcode and the 26 other bits of an instruction give the instruction back (R111, R118). -/
def Fields.Statement (i : Instr) : Prop := Instr.ofFields i.opcode i.rest = i

/-- Under the default parameters the extracted function code is the function-code field of the opcode's format class
(R114-R116). -/
def FunctionCode.Statement (i : Instr) : Prop := Machine.extractFc Machine.Params.default (encode i) = i.fnCode

theorem Fields.callPal (fc : BitVec 26) : Fields.Statement (.callPal fc) := rfl
theorem Fields.opc01 (bits : BitVec 26) : Fields.Statement (.opc01 bits) := rfl
theorem Fields.opc02 (bits : BitVec 26) : Fields.Statement (.opc02 bits) := rfl
theorem Fields.opc03 (bits : BitVec 26) : Fields.Statement (.opc03 bits) := rfl
theorem Fields.opc04 (bits : BitVec 26) : Fields.Statement (.opc04 bits) := rfl
theorem Fields.opc05 (bits : BitVec 26) : Fields.Statement (.opc05 bits) := rfl
theorem Fields.opc06 (bits : BitVec 26) : Fields.Statement (.opc06 bits) := rfl
theorem Fields.opc07 (bits : BitVec 26) : Fields.Statement (.opc07 bits) := rfl
theorem Fields.lda (bits : BitVec 26) : Fields.Statement (.lda bits) := rfl
theorem Fields.ldah (bits : BitVec 26) : Fields.Statement (.ldah bits) := rfl
theorem Fields.ldbu (bits : BitVec 26) : Fields.Statement (.ldbu bits) := rfl
theorem Fields.ldqU (bits : BitVec 26) : Fields.Statement (.ldqU bits) := rfl
theorem Fields.ldwu (bits : BitVec 26) : Fields.Statement (.ldwu bits) := rfl
theorem Fields.stw (bits : BitVec 26) : Fields.Statement (.stw bits) := rfl
theorem Fields.stb (bits : BitVec 26) : Fields.Statement (.stb bits) := rfl
theorem Fields.stqU (bits : BitVec 26) : Fields.Statement (.stqU bits) := rfl
theorem Fields.inta (hi : BitVec 14) (fc : BitVec 7) (lo : BitVec 5) : Fields.Statement (.inta hi fc lo) := 
  congr (congr (congrArg Instr.inta (extract_append_top hi fc lo)) (extract_append_mid hi fc lo)) (extract_append_lo (hi ++ fc) lo)
theorem Fields.intl (hi : BitVec 14) (fc : BitVec 7) (lo : BitVec 5) : Fields.Statement (.intl hi fc lo) := 
  congr (congr (congrArg Instr.intl (extract_append_top hi fc lo)) (extract_append_mid hi fc lo)) (extract_append_lo (hi ++ fc) lo)
theorem Fields.ints (hi : BitVec 14) (fc : BitVec 7) (lo : BitVec 5) : Fields.Statement (.ints hi fc lo) := 
  congr (congr (congrArg Instr.ints (extract_append_top hi fc lo)) (extract_append_mid hi fc lo)) (extract_append_lo (hi ++ fc) lo)
theorem Fields.intm (hi : BitVec 14) (fc : BitVec 7) (lo : BitVec 5) : Fields.Statement (.intm hi fc lo) := 
  congr (congr (congrArg Instr.intm (extract_append_top hi fc lo)) (extract_append_mid hi fc lo)) (extract_append_lo (hi ++ fc) lo)
theorem Fields.itfp (hi : BitVec 10) (fc : BitVec 11) (lo : BitVec 5) : Fields.Statement (.itfp hi fc lo) := 
  congr (congr (congrArg Instr.itfp (extract_append_top hi fc lo)) (extract_append_mid hi fc lo)) (extract_append_lo (hi ++ fc) lo)
theorem Fields.fltv (hi : BitVec 10) (fc : BitVec 11) (lo : BitVec 5) : Fields.Statement (.fltv hi fc lo) := 
  congr (congr (congrArg Instr.fltv (extract_append_top hi fc lo)) (extract_append_mid hi fc lo)) (extract_append_lo (hi ++ fc) lo)
theorem Fields.flti (hi : BitVec 10) (fc : BitVec 11) (lo : BitVec 5) : Fields.Statement (.flti hi fc lo) := 
  congr (congr (congrArg Instr.flti (extract_append_top hi fc lo)) (extract_append_mid hi fc lo)) (extract_append_lo (hi ++ fc) lo)
theorem Fields.fltl (hi : BitVec 10) (fc : BitVec 11) (lo : BitVec 5) : Fields.Statement (.fltl hi fc lo) := 
  congr (congr (congrArg Instr.fltl (extract_append_top hi fc lo)) (extract_append_mid hi fc lo)) (extract_append_lo (hi ++ fc) lo)
theorem Fields.misc (hi : BitVec 10) (fc : BitVec 16) : Fields.Statement (.misc hi fc) := 
  congr (congrArg Instr.misc (extract_append_hi hi fc)) (extract_append_lo hi fc)
theorem Fields.hwMfpr (fc : BitVec 26) : Fields.Statement (.hwMfpr fc) := rfl
theorem Fields.jsr (hi : BitVec 10) (fc : BitVec 2) (lo : BitVec 14) : Fields.Statement (.jsr hi fc lo) := 
  congr (congr (congrArg Instr.jsr (extract_append_top hi fc lo)) (extract_append_mid hi fc lo)) (extract_append_lo (hi ++ fc) lo)
theorem Fields.hwLd (fc : BitVec 26) : Fields.Statement (.hwLd fc) := rfl
theorem Fields.fpti (hi : BitVec 14) (fc : BitVec 7) (lo : BitVec 5) : Fields.Statement (.fpti hi fc lo) := 
  congr (congr (congrArg Instr.fpti (extract_append_top hi fc lo)) (extract_append_mid hi fc lo)) (extract_append_lo (hi ++ fc) lo)
theorem Fields.hwMtpr (fc : BitVec 26) : Fields.Statement (.hwMtpr fc) := rfl
theorem Fields.hwRei (fc : BitVec 26) : Fields.Statement (.hwRei fc) := rfl
theorem Fields.hwSt (fc : BitVec 26) : Fields.Statement (.hwSt fc) := rfl
theorem Fields.ldf (bits : BitVec 26) : Fields.Statement (.ldf bits) := rfl
theorem Fields.ldg (bits : BitVec 26) : Fields.Statement (.ldg bits) := rfl
theorem Fields.lds (bits : BitVec 26) : Fields.Statement (.lds bits) := rfl
theorem Fields.ldt (bits : BitVec 26) : Fields.Statement (.ldt bits) := rfl
theorem Fields.stf (bits : BitVec 26) : Fields.Statement (.stf bits) := rfl
theorem Fields.stg (bits : BitVec 26) : Fields.Statement (.stg bits) := rfl
theorem Fields.sts (bits : BitVec 26) : Fields.Statement (.sts bits) := rfl
theorem Fields.stt (bits : BitVec 26) : Fields.Statement (.stt bits) := rfl
theorem Fields.ldl (bits : BitVec 26) : Fields.Statement (.ldl bits) := rfl
theorem Fields.ldq (bits : BitVec 26) : Fields.Statement (.ldq bits) := rfl
theorem Fields.ldlL (bits : BitVec 26) : Fields.Statement (.ldlL bits) := rfl
theorem Fields.ldqL (bits : BitVec 26) : Fields.Statement (.ldqL bits) := rfl
theorem Fields.stl (bits : BitVec 26) : Fields.Statement (.stl bits) := rfl
theorem Fields.stq (bits : BitVec 26) : Fields.Statement (.stq bits) := rfl
theorem Fields.stlC (bits : BitVec 26) : Fields.Statement (.stlC bits) := rfl
theorem Fields.stqC (bits : BitVec 26) : Fields.Statement (.stqC bits) := rfl
theorem Fields.br (bits : BitVec 26) : Fields.Statement (.br bits) := rfl
theorem Fields.fbeq (bits : BitVec 26) : Fields.Statement (.fbeq bits) := rfl
theorem Fields.fblt (bits : BitVec 26) : Fields.Statement (.fblt bits) := rfl
theorem Fields.fble (bits : BitVec 26) : Fields.Statement (.fble bits) := rfl
theorem Fields.bsr (bits : BitVec 26) : Fields.Statement (.bsr bits) := rfl
theorem Fields.fbne (bits : BitVec 26) : Fields.Statement (.fbne bits) := rfl
theorem Fields.fbge (bits : BitVec 26) : Fields.Statement (.fbge bits) := rfl
theorem Fields.fbgt (bits : BitVec 26) : Fields.Statement (.fbgt bits) := rfl
theorem Fields.blbc (bits : BitVec 26) : Fields.Statement (.blbc bits) := rfl
theorem Fields.beq (bits : BitVec 26) : Fields.Statement (.beq bits) := rfl
theorem Fields.blt (bits : BitVec 26) : Fields.Statement (.blt bits) := rfl
theorem Fields.ble (bits : BitVec 26) : Fields.Statement (.ble bits) := rfl
theorem Fields.blbs (bits : BitVec 26) : Fields.Statement (.blbs bits) := rfl
theorem Fields.bne (bits : BitVec 26) : Fields.Statement (.bne bits) := rfl
theorem Fields.bge (bits : BitVec 26) : Fields.Statement (.bge bits) := rfl
theorem Fields.bgt (bits : BitVec 26) : Fields.Statement (.bgt bits) := rfl
theorem FunctionCode.callPal (fc : BitVec 26) : FunctionCode.Statement (.callPal fc) := extractFc_pal rfl fc
theorem FunctionCode.opc01 (bits : BitVec 26) : FunctionCode.Statement (.opc01 bits) := extractFc_none (.inr (.inr rfl)) bits
theorem FunctionCode.opc02 (bits : BitVec 26) : FunctionCode.Statement (.opc02 bits) := extractFc_none (.inr (.inr rfl)) bits
theorem FunctionCode.opc03 (bits : BitVec 26) : FunctionCode.Statement (.opc03 bits) := extractFc_none (.inr (.inr rfl)) bits
theorem FunctionCode.opc04 (bits : BitVec 26) : FunctionCode.Statement (.opc04 bits) := extractFc_none (.inr (.inr rfl)) bits
theorem FunctionCode.opc05 (bits : BitVec 26) : FunctionCode.Statement (.opc05 bits) := extractFc_none (.inr (.inr rfl)) bits
theorem FunctionCode.opc06 (bits : BitVec 26) : FunctionCode.Statement (.opc06 bits) := extractFc_none (.inr (.inr rfl)) bits
theorem FunctionCode.opc07 (bits : BitVec 26) : FunctionCode.Statement (.opc07 bits) := extractFc_none (.inr (.inr rfl)) bits
theorem FunctionCode.lda (bits : BitVec 26) : FunctionCode.Statement (.lda bits) := extractFc_none (.inl rfl) bits
theorem FunctionCode.ldah (bits : BitVec 26) : FunctionCode.Statement (.ldah bits) := extractFc_none (.inl rfl) bits
theorem FunctionCode.ldbu (bits : BitVec 26) : FunctionCode.Statement (.ldbu bits) := extractFc_none (.inl rfl) bits
theorem FunctionCode.ldqU (bits : BitVec 26) : FunctionCode.Statement (.ldqU bits) := extractFc_none (.inl rfl) bits
theorem FunctionCode.ldwu (bits : BitVec 26) : FunctionCode.Statement (.ldwu bits) := extractFc_none (.inl rfl) bits
theorem FunctionCode.stw (bits : BitVec 26) : FunctionCode.Statement (.stw bits) := extractFc_none (.inl rfl) bits
theorem FunctionCode.stb (bits : BitVec 26) : FunctionCode.Statement (.stb bits) := extractFc_none (.inl rfl) bits
theorem FunctionCode.stqU (bits : BitVec 26) : FunctionCode.Statement (.stqU bits) := extractFc_none (.inl rfl) bits
theorem FunctionCode.inta (hi : BitVec 14) (fc : BitVec 7) (lo : BitVec 5) : FunctionCode.Statement (.inta hi fc lo) := extractFc_operate rfl hi fc lo
theorem FunctionCode.intl (hi : BitVec 14) (fc : BitVec 7) (lo : BitVec 5) : FunctionCode.Statement (.intl hi fc lo) := extractFc_operate rfl hi fc lo
theorem FunctionCode.ints (hi : BitVec 14) (fc : BitVec 7) (lo : BitVec 5) : FunctionCode.Statement (.ints hi fc lo) := extractFc_operate rfl hi fc lo
theorem FunctionCode.intm (hi : BitVec 14) (fc : BitVec 7) (lo : BitVec 5) : FunctionCode.Statement (.intm hi fc lo) := extractFc_operate rfl hi fc lo
theorem FunctionCode.itfp (hi : BitVec 10) (fc : BitVec 11) (lo : BitVec 5) : FunctionCode.Statement (.itfp hi fc lo) := extractFc_float rfl hi fc lo
theorem FunctionCode.fltv (hi : BitVec 10) (fc : BitVec 11) (lo : BitVec 5) : FunctionCode.Statement (.fltv hi fc lo) := extractFc_float rfl hi fc lo
theorem FunctionCode.flti (hi : BitVec 10) (fc : BitVec 11) (lo : BitVec 5) : FunctionCode.Statement (.flti hi fc lo) := extractFc_float rfl hi fc lo
theorem FunctionCode.fltl (hi : BitVec 10) (fc : BitVec 11) (lo : BitVec 5) : FunctionCode.Statement (.fltl hi fc lo) := extractFc_float rfl hi fc lo
theorem FunctionCode.misc (hi : BitVec 10) (fc : BitVec 16) : FunctionCode.Statement (.misc hi fc) := extractFc_memory_barrier rfl rfl hi fc
theorem FunctionCode.hwMfpr (fc : BitVec 26) : FunctionCode.Statement (.hwMfpr fc) := extractFc_pal rfl fc
theorem FunctionCode.jsr (hi : BitVec 10) (fc : BitVec 2) (lo : BitVec 14) : FunctionCode.Statement (.jsr hi fc lo) := extractFc_jump rfl rfl hi fc lo
theorem FunctionCode.hwLd (fc : BitVec 26) : FunctionCode.Statement (.hwLd fc) := extractFc_pal rfl fc
theorem FunctionCode.fpti (hi : BitVec 14) (fc : BitVec 7) (lo : BitVec 5) : FunctionCode.Statement (.fpti hi fc lo) := extractFc_operate rfl hi fc lo
theorem FunctionCode.hwMtpr (fc : BitVec 26) : FunctionCode.Statement (.hwMtpr fc) := extractFc_pal rfl fc
theorem FunctionCode.hwRei (fc : BitVec 26) : FunctionCode.Statement (.hwRei fc) := extractFc_pal rfl fc
theorem FunctionCode.hwSt (fc : BitVec 26) : FunctionCode.Statement (.hwSt fc) := extractFc_pal rfl fc
theorem FunctionCode.ldf (bits : BitVec 26) : FunctionCode.Statement (.ldf bits) := extractFc_none (.inl rfl) bits
theorem FunctionCode.ldg (bits : BitVec 26) : FunctionCode.Statement (.ldg bits) := extractFc_none (.inl rfl) bits
theorem FunctionCode.lds (bits : BitVec 26) : FunctionCode.Statement (.lds bits) := extractFc_none (.inl rfl) bits
theorem FunctionCode.ldt (bits : BitVec 26) : FunctionCode.Statement (.ldt bits) := extractFc_none (.inl rfl) bits
theorem FunctionCode.stf (bits : BitVec 26) : FunctionCode.Statement (.stf bits) := extractFc_none (.inl rfl) bits
theorem FunctionCode.stg (bits : BitVec 26) : FunctionCode.Statement (.stg bits) := extractFc_none (.inl rfl) bits
theorem FunctionCode.sts (bits : BitVec 26) : FunctionCode.Statement (.sts bits) := extractFc_none (.inl rfl) bits
theorem FunctionCode.stt (bits : BitVec 26) : FunctionCode.Statement (.stt bits) := extractFc_none (.inl rfl) bits
theorem FunctionCode.ldl (bits : BitVec 26) : FunctionCode.Statement (.ldl bits) := extractFc_none (.inl rfl) bits
theorem FunctionCode.ldq (bits : BitVec 26) : FunctionCode.Statement (.ldq bits) := extractFc_none (.inl rfl) bits
theorem FunctionCode.ldlL (bits : BitVec 26) : FunctionCode.Statement (.ldlL bits) := extractFc_none (.inl rfl) bits
theorem FunctionCode.ldqL (bits : BitVec 26) : FunctionCode.Statement (.ldqL bits) := extractFc_none (.inl rfl) bits
theorem FunctionCode.stl (bits : BitVec 26) : FunctionCode.Statement (.stl bits) := extractFc_none (.inl rfl) bits
theorem FunctionCode.stq (bits : BitVec 26) : FunctionCode.Statement (.stq bits) := extractFc_none (.inl rfl) bits
theorem FunctionCode.stlC (bits : BitVec 26) : FunctionCode.Statement (.stlC bits) := extractFc_none (.inl rfl) bits
theorem FunctionCode.stqC (bits : BitVec 26) : FunctionCode.Statement (.stqC bits) := extractFc_none (.inl rfl) bits
theorem FunctionCode.br (bits : BitVec 26) : FunctionCode.Statement (.br bits) := extractFc_none (.inr (.inl rfl)) bits
theorem FunctionCode.fbeq (bits : BitVec 26) : FunctionCode.Statement (.fbeq bits) := extractFc_none (.inr (.inl rfl)) bits
theorem FunctionCode.fblt (bits : BitVec 26) : FunctionCode.Statement (.fblt bits) := extractFc_none (.inr (.inl rfl)) bits
theorem FunctionCode.fble (bits : BitVec 26) : FunctionCode.Statement (.fble bits) := extractFc_none (.inr (.inl rfl)) bits
theorem FunctionCode.bsr (bits : BitVec 26) : FunctionCode.Statement (.bsr bits) := extractFc_none (.inr (.inl rfl)) bits
theorem FunctionCode.fbne (bits : BitVec 26) : FunctionCode.Statement (.fbne bits) := extractFc_none (.inr (.inl rfl)) bits
theorem FunctionCode.fbge (bits : BitVec 26) : FunctionCode.Statement (.fbge bits) := extractFc_none (.inr (.inl rfl)) bits
theorem FunctionCode.fbgt (bits : BitVec 26) : FunctionCode.Statement (.fbgt bits) := extractFc_none (.inr (.inl rfl)) bits
theorem FunctionCode.blbc (bits : BitVec 26) : FunctionCode.Statement (.blbc bits) := extractFc_none (.inr (.inl rfl)) bits
theorem FunctionCode.beq (bits : BitVec 26) : FunctionCode.Statement (.beq bits) := extractFc_none (.inr (.inl rfl)) bits
theorem FunctionCode.blt (bits : BitVec 26) : FunctionCode.Statement (.blt bits) := extractFc_none (.inr (.inl rfl)) bits
theorem FunctionCode.ble (bits : BitVec 26) : FunctionCode.Statement (.ble bits) := extractFc_none (.inr (.inl rfl)) bits
theorem FunctionCode.blbs (bits : BitVec 26) : FunctionCode.Statement (.blbs bits) := extractFc_none (.inr (.inl rfl)) bits
theorem FunctionCode.bne (bits : BitVec 26) : FunctionCode.Statement (.bne bits) := extractFc_none (.inr (.inl rfl)) bits
theorem FunctionCode.bge (bits : BitVec 26) : FunctionCode.Statement (.bge bits) := extractFc_none (.inr (.inl rfl)) bits
theorem FunctionCode.bgt (bits : BitVec 26) : FunctionCode.Statement (.bgt bits) := extractFc_none (.inr (.inl rfl)) bits

end Sys2Proof.Laws
end

