-- ==== Sys2Proof/Laws/Registry.lean ====
section
/-! SUPPORT. The registry: what a registration leaves at every key, and that its form is kept. -/

namespace Sys2Proof.Laws

open Sys2Proof.Machine

/-- Reading a key after a pair is appended: an earlier pair of the same key wins. -/
theorem grainAt_append (reg : Registry) (k k' : GrainKey) (g : Grain) :
    grainAt (reg ++ [(k, g)]) k' = (grainAt reg k').or (if k' = k then some g else none) := by
  unfold grainAt
  induction reg with
  | nil => simp [List.lookup]; split <;> simp_all
  | cons e reg ih =>
    obtain ⟨k0, g0⟩ := e
    simp only [List.cons_append, List.lookup]
    split <;> simp_all

/-- A duplicate is ignored (R143). -/
theorem registerGrain_held {p : Params} {reg : Registry} {op : Opcode} {fc : FnCode} {plat : Platform} {g g0 : Grain}
    (h : grainAt reg (foldKey p op fc plat) = some g0) : registerGrain p reg op fc plat g = (false, reg) := by
  simp [registerGrain, h]

/-- A new key is appended (R142). -/
theorem registerGrain_new {p : Params} {reg : Registry} {op : Opcode} {fc : FnCode} {plat : Platform} {g : Grain}
    (h : grainAt reg (foldKey p op fc plat) = none) :
    registerGrain p reg op fc plat g = (true, reg ++ [(foldKey p op fc plat, g)]) := by
  simp [registerGrain, h]

/-- Every key after a registration of a new one (R142). -/
theorem grainAt_registerGrain {p : Params} {reg : Registry} {op : Opcode} {fc : FnCode} {plat : Platform} {g : Grain}
    (h : grainAt reg (foldKey p op fc plat) = none) (k : GrainKey) :
    grainAt (registerGrain p reg op fc plat g).2 k = if k = foldKey p op fc plat then some g else grainAt reg k := by
  rw [registerGrain_new h, grainAt_append]
  split
  · subst k; simp [h]
  · simp

/-- A registration changes no key but its own, whether or not it is accepted. -/
theorem grainAt_registerGrain_other {p : Params} {reg : Registry} {op : Opcode} {fc : FnCode} {plat : Platform} {g : Grain}
    {k : GrainKey} (h : k ≠ foldKey p op fc plat) : grainAt (registerGrain p reg op fc plat g).2 k = grainAt reg k := by
  cases hk : grainAt reg (foldKey p op fc plat) with
  | some g0 => rw [registerGrain_held hk]
  | none => rw [grainAt_registerGrain hk, if_neg h]

/-- A key the registry does not hold is not the key of any entry. -/
theorem grainAt_none {reg : Registry} {k : GrainKey} : grainAt reg k = none ↔ ∀ e ∈ reg, e.1 ≠ k := by
  unfold grainAt
  induction reg with
  | nil => simp [List.lookup]
  | cons e reg ih =>
    obtain ⟨k0, g0⟩ := e
    simp only [List.lookup]
    split
    · simp_all
    · rename_i hk
      have : k0 ≠ k := fun e => by simp [e] at hk
      simp [this, ih]

/-- A registration keeps the registry's form (R50, R140, R141). -/
theorem registerGrain_wf {p : Params} {reg : Registry} {op : Opcode} {fc : FnCode} {plat : Platform} {g : Grain}
    (h : registryWf p reg = true) : registryWf p (registerGrain p reg op fc plat g).2 = true := by
  cases hk : grainAt reg (foldKey p op fc plat) with
  | some g0 => rw [registerGrain_held hk]; exact h
  | none =>
    rw [registerGrain_new hk]
    have hne := grainAt_none.mp hk
    simp only [registryWf, Bool.and_eq_true, decide_eq_true_eq] at h ⊢
    refine ⟨?_, ?_⟩
    · simp only [List.map_append, List.map_cons, List.map_nil]
      rw [List.nodup_append]
      refine ⟨h.1, by simp, ?_⟩
      intro a ha b hb
      obtain ⟨e, he, rfl⟩ := List.mem_map.mp ha
      simp only [List.mem_singleton] at hb
      subst hb
      exact hne e he
    · rw [List.all_append, h.2, Bool.true_and]
      simp only [List.all_cons, List.all_nil, Bool.and_true, foldKey]
      cases isHardwareInternal p op <;> simp

end Sys2Proof.Laws
end

