-- ==== Sys2Proof/Laws/Wf.lean ====
section
/-! SUPPORT. The invariant of one CPU's event state, and that every way an operation changes that state keeps it. -/

namespace Sys2Proof.Laws

open Sys2Proof.Machine

/-- The invariant of `S[c]`, part by part (R441, R35, R37, R43). -/
theorem cpuState_wf {p : Params} {x : CpuState} :
    x.wf p = true ↔ (x.slot = PendingEvent.empty ∨ x.slot.kind = .exception ∧ x.slot.vector < 2 ^ p.vecW) ∧ x.sirr &&& 1#16 = 0 ∧
      x.pctx &&& ~~~pctxMask = 0 ∧ x.palBase &&& ~~~p.palBaseMask = 0 := by
  simp only [CpuState.wf, Bool.and_eq_true, Bool.or_eq_true, decide_eq_true_eq, and_assoc]

theorem and_not_of_masked {n : Nat} (a m : BitVec n) : (a &&& m) &&& ~~~m = 0 := by
  rw [BitVec.and_assoc, BitVec.and_not_self]; simp

/-- The PCTX updates stay inside the mask (R37). -/
theorem pctxWithAsn_masked {v : Quad} (h : v &&& ~~~pctxMask = 0) (n : BitVec 8) : pctxWithAsn v n &&& ~~~pctxMask = 0 := by
  apply BitVec.eq_of_getLsbD_eq; intro k hk
  have hv : (v &&& ~~~pctxMask).getLsbD k = false := by rw [h]; simp
  simp only [pctxWithAsn, BitVec.getLsbD_and, BitVec.getLsbD_or, BitVec.getLsbD_shiftLeft, BitVec.getLsbD_setWidth,
    BitVec.getLsbD_not, hk, decide_true, Bool.true_and] at hv ⊢
  by_cases hm : pctxMask.getLsbD k = true
  · simp [hm]
  · have hn : n.getLsbD (k - 39) = false ∨ k < 39 := by
      by_cases h39 : k < 39
      · exact .inr h39
      · left
        apply BitVec.getLsbD_of_ge
        by_contra hc
        have : k = 39 ∨ k = 40 ∨ k = 41 ∨ k = 42 ∨ k = 43 ∨ k = 44 ∨ k = 45 ∨ k = 46 := by omega
        rcases this with rfl | rfl | rfl | rfl | rfl | rfl | rfl | rfl <;> exact hm (by decide)
    simp only [Bool.not_eq_true] at hm
    simp only [hm, Bool.not_false, Bool.and_true] at hv ⊢
    rcases hn with hn | hn <;> simp [hv, hn]

theorem pctxWithAst_masked {v : Quad} (h : v &&& ~~~pctxMask = 0) (m : BitVec 2) : pctxWithAst v m &&& ~~~pctxMask = 0 := by
  have hm : ∀ m : BitVec 2, (1#64 <<< (9 + m.toNat)) &&& ~~~pctxMask = 0 := by decide
  have : pctxWithAst v m &&& ~~~pctxMask = (v &&& ~~~pctxMask) ||| ((1#64 <<< (9 + m.toNat)) &&& ~~~pctxMask) := by
    apply BitVec.eq_of_getLsbD_eq; intro k _
    simp only [pctxWithAst, BitVec.getLsbD_and, BitVec.getLsbD_or, Bool.and_or_distrib_right]
  rw [this, h, hm]; rfl

/-- A slot that is NONE or holds an exception holds an exception after one is posted (R440, R441). -/
theorem postEvent_wf {p : Params} {x : CpuState} {e : PendingEvent} (h : x.wf p = true) : (postEvent p x e).wf p = true := by
  rw [cpuState_wf] at h ⊢
  obtain ⟨h1, h2, h3, h4⟩ := h
  refine ⟨?_, by simpa using h2, ?_, by simpa using h4⟩
  · unfold postEvent
    split
    · exact h1
    · exact h1
    · exact h1
    · rename_i he
      split
      · exact .inr ⟨he, vectorId_lt p _⟩
      split
      · exact h1
      split
      · exact .inr ⟨he, vectorId_lt p _⟩
      split
      · exact h1
      · rcases h1 with h1 | h1
        · rename_i hk _ _ _; exact absurd (by rw [h1]; rfl) hk
        · exact .inr ⟨h1.1, vectorId_lt p _⟩
  · unfold postEvent
    split
    · exact h3
    · exact h3
    · exact pctxWithAst_masked h3 _
    · (repeat' split) <;> exact h3

theorem raiseTrap_wf {p : Params} {x : CpuState} {c : TrapClass} {va info : Quad} {f : EventFlags} (h : x.wf p = true) :
    (raiseTrap p x c va info f).wf p = true := postEvent_wf h

theorem acquireIpi_wf {p : Params} {x : CpuState} {q : Nat} (h : x.wf p = true) : (x.acquireIpi q).wf p = true := by
  rw [cpuState_wf] at h ⊢; exact h

theorem arbiterLoads_wf {p : Params} {x : CpuState} {c : Nat} (h : x.wf p = true) : (x.arbiterLoads c).wf p = true := by
  rw [cpuState_wf] at h ⊢; exact h

theorem consume_wf {p : Params} {x : CpuState} {e : PendingEvent} (h : x.wf p = true) : (consume x e).wf p = true := by
  rw [cpuState_wf] at h ⊢
  obtain ⟨h1, h2, h3, h4⟩ := h
  refine ⟨?_, by simpa using h2, by simpa using h3, by simpa using h4⟩
  unfold consume
  split
  · exact h1
  · exact .inl rfl
  · exact h1
  · exact h1

theorem applyToCpu_wf {p : Params} {x : CpuState} {r : PalResult} (h : x.wf p = true) : (applyToCpu x r).wf p = true := by
  rw [cpuState_wf] at h ⊢
  obtain ⟨h1, h2, h3, h4⟩ := h
  refine ⟨by simpa using h1, by simpa using h2, ?_, by simpa using h4⟩
  rw [applyToCpu_pctx]
  split
  · exact pctxWithAsn_masked h3 _
  · exact h3

theorem sirr_masked (m : Quad) : (m &&& 0xFFFE#64).setWidth 16 &&& 1#16 = 0 := by
  apply BitVec.eq_of_getLsbD_eq; intro k hk
  rcases Nat.eq_zero_or_pos k with rfl | h0
  · simp
  · have : (1#16).getLsbD k = false := by simp [BitVec.getLsbD_one]; omega
    rw [BitVec.getLsbD_and, this]; simp

theorem writeField_wf {p : Params} {x y : CpuState} {f : Field} {v : Quad} (h : x.wf p = true)
    (hw : writeField p x f v = some y) : y.wf p = true := by
  rw [cpuState_wf] at h ⊢
  obtain ⟨h1, h2, h3, h4⟩ := h
  cases f <;> simp only [writeField, Option.some.injEq, reduceCtorEq] at hw <;> subst hw
  case sirr => exact ⟨h1, sirr_masked v, h3, h4⟩
  case pctx => exact ⟨h1, h2, and_not_of_masked v _, h4⟩
  case palBase => exact ⟨h1, h2, h3, and_not_of_masked v _⟩
  all_goals exact ⟨h1, h2, h3, h4⟩

theorem reset_wf (p : Params) : (CpuState.reset p).wf p = true := by
  rw [cpuState_wf]
  exact ⟨.inl rfl, by simp, by simp, and_not_of_masked _ _⟩

/-- Every change an operation makes to a CPU keeps its invariant. -/
theorem cpuStep_wf {p : Params} {c : Nat} {op : Op} {x y : CpuState} (h : x.wf p = true) (hs : CpuStep p c op x y) :
    y.wf p = true := by
  cases hs with
  | same => exact h
  | decodeTrap => exact raiseTrap_wf h
  | translation => exact raiseTrap_wf h
  | arith => exact raiseTrap_wf h
  | machineCheck => exact raiseTrap_wf h
  | post => exact postEvent_wf h
  | consume => exact consume_wf (arbiterLoads_wf h)
  | observe => exact acquireIpi_wf h
  | apply => exact applyToCpu_wf h
  | write _ _ _ _ hw => exact writeField_wf h hw
  | resetOne => exact reset_wf p
  | resetAll => exact reset_wf p
  | sendData | sendRequest | sendInterrupt | ackTake | ackClear | ackRead | irqSet | irqClear | astUpdate =>
    rw [cpuState_wf] at h ⊢; exact h

end Sys2Proof.Laws
end

