-- ==== Sys2Proof/Laws/Perform.lean ====
section
/-! SUPPORT. What an operation does to the tables and to the bank as a whole: who is in it, who writes the registry, and
that every operation keeps the invariant. -/

namespace Sys2Proof.Laws

open Sys2Proof.Machine

/-- The operations that are steps of configuration, reset or boot (R500-R504, R142, R51). -/
def isConfiguration : Op → Bool
  | .register _ _ _ _ | .setActivePlatform _ | .globalReset | .releaseReset | .initBank | .shutdownBank
  | .deregisterCpu _ => true
  | _ => false

/-- The tables stay as they are, and either nobody reads the bank, or it is built first and nobody joins or leaves it. -/
def KeepsTables (a : Agent) (op : Op) (s t : State) : Prop :=
  t.params = s.params ∧ t.registry = s.registry ∧ t.activePlatform = s.activePlatform ∧ t.isSealed = s.isSealed ∧
    (t.bank = s.bank ∨
      (∀ c, (t.cpu? c).isSome = (s.touchBank.cpu? c).isSome) ∧ perform a op s.touchBank = perform a op s)

theorem withCpu_touchBank (s : State) (c : Nat) (f : State → CpuState → Result) : withCpu s.touchBank c f = withCpu s c f := by
  simp [withCpu]

theorem setBusy_isSome (s : State) (c d : Nat) (b : Option IpiLine) : ((s.setBusy c b).cpu? d).isSome = (s.cpu? d).isSome := by
  unfold State.setBusy
  split
  · exact cpu?_isSome_setCpu _ _ _ _
  · rfl

/-- Every operation outside configuration keeps the tables and the bank's CPUs (R101, R452). -/
theorem perform_keepsTables {a : Agent} {op : Op} {s t : State} (hc : isConfiguration op = false)
    (h : perform a op s = .next t) : KeepsTables a op s t := by
  have h0 := h
  cases op with
  | register _ _ _ _ | setActivePlatform _ | globalReset | releaseReset | initBank | shutdownBank | deregisterCpu _ => cases hc
  | resolve w =>
    simp only [perform, resolve, whileSealed] at h
    split at h <;> cases h
    exact ⟨rfl, rfl, rfl, rfl, .inl rfl⟩
  | lookup o fc plat =>
    simp only [perform, lookup, whileSealed] at h
    split at h <;> cases h
    exact ⟨rfl, rfl, rfl, rfl, .inl rfl⟩
  | route _ | grainCount | computeEligibility _ _ _ _ | mapITranslationFault _ | mapDTranslationFault _
  | mapTranslationFault _ _ | decodeMMStat _ _ | classifyArith _ | isRecoverableFault _ | buildPal _ =>
    cases h; exact ⟨rfl, rfl, rfl, rfl, .inl rfl⟩
  | decode d w pc =>
    simp only [perform, runWord] at h
    rw [exec_eq_decodeStage] at h
    obtain ⟨x', hx', -, -, -, ⟨o, -, rfl⟩ | ⟨cls, hd, rfl⟩⟩ := decodeStage_next h
    · refine ⟨by simp, by simp, by simp, by simp, .inr ⟨fun c => by rw [touchBank_with_current]; rfl, ?_⟩⟩
      simp only [perform, runWord, exec_eq_decodeStage, decodeStage]
      rw [← touchBank_with_current, withCpu_touchBank]
    · refine ⟨by simp, by simp, by simp, by simp, .inr ⟨fun c => ?_, ?_⟩⟩
      · rw [cpu?_emit, cpu?_isSome_setCpu, touchBank_with_current]; rfl
      · simp only [perform, runWord, exec_eq_decodeStage, decodeStage]
        rw [← touchBank_with_current, withCpu_touchBank]
  | setPendingEvent d e =>
    simp only [perform, setPendingEvent] at h ⊢
    split at h
    · cases h
    obtain ⟨x', hx', h⟩ := withCpu_next h
    cases h
    refine ⟨by simp, by simp, by simp, by simp, .inr ⟨fun c => by simp [cpu?_isSome_setCpu], ?_⟩⟩
    simp only [perform, setPendingEvent, withCpu_touchBank]
  | sendIPI src dst data =>
    simp only [perform, sendIPI] at h
    obtain ⟨xs, hs, h⟩ := withCpu_next h
    obtain ⟨xd, hd, h⟩ := withCpu_next h
    cases h
    refine ⟨by simp, by simp, by simp, by simp, .inr ⟨fun c => by simp [cpu?_isSome_setCpu, setBusy_isSome], ?_⟩⟩
    simp only [perform, sendIPI, withCpu_touchBank]
  | continueIPI d =>
    simp only [perform, continueIPI] at h
    obtain ⟨xs, hs, h⟩ := withCpu_next h
    have ht : ∀ r : State, perform a (.continueIPI d) r.touchBank = perform a (.continueIPI d) r := fun r => by
      simp only [perform, continueIPI, withCpu_touchBank]
    split at h
    · cases h
    · obtain ⟨xd, hd, h⟩ := withCpu_next h
      cases h
      exact ⟨by simp, by simp, by simp, by simp, .inr ⟨fun c => by simp [cpu?_isSome_setCpu, setBusy_isSome], ht s⟩⟩
    · obtain ⟨xd, hd, h⟩ := withCpu_next h
      cases h
      exact ⟨by simp, by simp, by simp, by simp, .inr ⟨fun c => by simp [cpu?_isSome_setCpu, setBusy_isSome], ht s⟩⟩
    · cases h
      exact ⟨by simp, by simp, by simp, by simp, .inr ⟨fun c => by simp [cpu?_isSome_setCpu], ht s⟩⟩
    · cases h
      exact ⟨by simp, by simp, by simp, by simp, .inr ⟨fun c => by simp [cpu?_isSome_setCpu], ht s⟩⟩
  | readF d f =>
    cases a with
    | cpu reader =>
      replace h : readF reader d f s = .next t := h
      have ht : perform (.cpu reader) (.readF d f) s.touchBank = perform (.cpu reader) (.readF d f) s := by
        show readF reader d f s.touchBank = readF reader d f s
        simp only [readF, withCpu_touchBank]
      unfold readF at h
      obtain ⟨x', hx', h⟩ := withCpu_next h
      refine (?_ : KeepsTables _ _ _ _)
      cases f
      case ipiData =>
        dsimp only at h
        split at h <;> cases h <;> exact ⟨by simp, by simp, by simp, by simp, .inr ⟨fun c => rfl, ht⟩⟩
      all_goals
        cases h
        exact ⟨by simp, by simp, by simp, by simp, .inr ⟨fun c => by simp [cpu?_isSome_setCpu], ht⟩⟩
    | interruptSource | configuration | platform => cases h
  | reportTranslationFault d _ _ _ _ | reportArith d _ | captureFaultInfo d _ | raiseMachineCheck d _ | hasPendingEvent d
  | eventPendingState d | consumeEvent d | hasPendingTranslationFault d _ | applyPalResult d _ _ | ackIPI d | readSlot d
  | writeF d _ _ | irqSet d _ | irqClear d _ | astUpdate d _ _ | resetCpu d =>
    have ht := withCpu_touchBank s
    simp only [perform, reportTranslationFault, reportArith, captureFaultInfo, raiseMachineCheck, consumeEvent, queryPending,
      applyPalResult, ackIPI, readSlot, writeF, irqSet, irqClear, astUpdate, resetCpu] at h
    obtain ⟨x', hx', h⟩ := withCpu_next h
    try split at h
    all_goals
      cases h
      try refine ⟨by simp, by simp, by simp, by simp, .inr ⟨fun c => by simp [cpu?_isSome_setCpu], ?_⟩⟩
      try simp only [perform, reportTranslationFault, reportArith, captureFaultInfo, raiseMachineCheck, consumeEvent, queryPending,
        applyPalResult, ackIPI, readSlot, writeF, irqSet, irqClear, astUpdate, resetCpu, withCpu_touchBank]

/-- What an operation leaves in the bank: each CPU is one of the old ones after its step, or was built by `initBank`
(R30, R53). -/
theorem perform_cpu_back {a : Agent} {op : Op} {s t : State} {c : Nat} {y : CpuState} (h : perform a op s = .next t)
    (hy : t.cpu? c = some y) :
    (op = .initBank ∧ y = CpuState.reset s.params) ∨ ∃ x, s.touchBank.cpu? c = some x ∧ CpuStep s.params c op x y := by
  by_cases hc : isConfiguration op = true
  · cases op with
    | initBank =>
      left
      simp only [perform, initBank, whileUnsealed] at h
      split at h <;> cases h
      refine ⟨rfl, ?_⟩
      simp only [State.cpu?, List.getElem?_replicate] at hy
      split at hy <;> cases hy
      rfl
    | shutdownBank => cases h; cases hy
    | deregisterCpu d =>
      simp only [perform, deregisterCpu] at h
      obtain ⟨x', hx', h⟩ := withCpu_next h
      cases h
      refine .inr ⟨y, ?_, .same _ _⟩
      cases hb : s.touchBank.bank with
      | none => simp [State.cpu?, hb] at hy
      | some cpus =>
        simp only [State.cpu?, hb, Option.map_some, List.getElem?_set] at hy ⊢
        split at hy
        · split at hy <;> cases hy
        · exact hy
    | globalReset =>
      cases h
      exact .inr ⟨y, by rw [touchBank_of_cpu? (s := s) hy]; exact hy, .same _ _⟩
    | register _ _ _ _ | setActivePlatform _ =>
      simp only [perform, register, setActivePlatform, whileUnsealed] at h
      split at h <;> cases h
      exact .inr ⟨y, by rw [touchBank_of_cpu? (s := s) hy]; exact hy, .same _ _⟩
    | releaseReset =>
      cases h
      cases hb : s.bank with
      | none => simp [State.cpu?, hb] at hy
      | some cpus =>
        simp only [State.cpu?, hb, Option.map_some, List.getElem?_map] at hy
        rcases hc : cpus[c]? with _ | _ | x <;> simp only [hc, Option.map_none, Option.map_some, Option.join_none,
          Option.join_some, reduceCtorEq, Option.some.injEq] at hy
        subst hy
        exact .inr ⟨x, by simp [touchBank_of_bank hb, State.cpu?, hb, hc], .resetAll x⟩
    | _ => cases hc
  · right
    have hc' : isConfiguration op = false := by simpa using hc
    obtain ⟨-, -, -, -, hb | ⟨hs, he⟩⟩ := perform_keepsTables hc' h
    · have hx : s.cpu? c = some y := by rw [← cpu?_of_bank_eq hb, hy]
      rw [touchBank_of_cpu? hx]
      obtain (rfl | rfl | rfl) | ⟨y', hy', hstep⟩ := perform_cpu hx h
      · cases hc'
      · cases hc'
      · cases hc'
      · obtain rfl : y = y' := by simpa [hy] using hy'
        exact ⟨y, hx, hstep⟩
    · have : (s.touchBank.cpu? c).isSome = true := by rw [← hs, hy]; rfl
      obtain ⟨x, hx⟩ := Option.isSome_iff_exists.mp this
      obtain (rfl | rfl | rfl) | ⟨y', hy', hstep⟩ := perform_cpu hx (he.trans h)
      · cases hc'
      · cases hc'
      · cases hc'
      · obtain rfl : y = y' := by simpa [hy] using hy'
        exact ⟨x, hx, by simpa using hstep⟩

/-- What an operation does to the tables (R50-R52, R101). -/
theorem perform_tables {a : Agent} {op : Op} {s t : State} (h : perform a op s = .next t) :
    t.params = s.params ∧
      (t.registry = s.registry ∨ s.isSealed = false ∧
        ∃ o fc plat g, op = .register o fc plat g ∧ t.registry = (registerGrain s.params s.registry o fc plat g).2) ∧
      (t.activePlatform = s.activePlatform ∨ s.isSealed = false ∧ op = .setActivePlatform t.activePlatform) := by
  by_cases hc : isConfiguration op = true
  · cases op with
    | initBank =>
      simp only [perform, initBank, whileUnsealed] at h
      split at h <;> cases h
      exact ⟨rfl, .inl rfl, .inl rfl⟩
    | shutdownBank | globalReset | releaseReset => cases h; exact ⟨rfl, .inl rfl, .inl rfl⟩
    | deregisterCpu d =>
      simp only [perform, deregisterCpu] at h
      obtain ⟨x', hx', h⟩ := withCpu_next h
      cases h; exact ⟨by simp, .inl (by simp), .inl (by simp)⟩
    | register o fc plat g =>
      simp only [perform, register, whileUnsealed] at h
      split at h
      · cases h
      · cases h; exact ⟨rfl, .inr ⟨Bool.eq_false_iff.mpr (by assumption), o, fc, plat, g, rfl, rfl⟩, .inl rfl⟩
    | setActivePlatform plat =>
      simp only [perform, setActivePlatform, whileUnsealed] at h
      split at h
      · cases h
      · cases h; exact ⟨rfl, .inl rfl, .inr ⟨Bool.eq_false_iff.mpr (by assumption), rfl⟩⟩
    | _ => cases hc
  · obtain ⟨h1, h2, h3, -⟩ := perform_keepsTables (by simpa using hc) h
    exact ⟨h1, .inl h2, .inl h3⟩

/-- The CPUs of the bank are the `S[c]` there are (R30). -/
theorem mem_cpus_of_cpu? {s : State} {c : Nat} {x : CpuState} (h : s.cpu? c = some x) : x ∈ s.cpus := by
  cases hb : s.bank with
  | none => simp [State.cpu?, hb] at h
  | some cpus =>
    simp only [State.cpu?, hb] at h
    rcases hc : cpus[c]? with _ | _ | y <;> simp only [hc, Option.join_none, Option.join_some, reduceCtorEq,
      Option.some.injEq] at h
    subst h
    simpa [State.cpus, hb] using List.mem_of_getElem? hc

theorem cpu?_of_mem_cpus {s : State} {x : CpuState} (h : x ∈ s.cpus) : ∃ c, s.cpu? c = some x := by
  cases hb : s.bank with
  | none => simp [State.cpus, hb] at h
  | some cpus =>
    obtain ⟨c, hc⟩ := List.mem_iff_getElem?.mp (by simpa [State.cpus, hb] using h : some x ∈ cpus)
    exact ⟨c, by simp [State.cpu?, hb, hc]⟩

/-- The bank the first access builds is as well-formed as the one there is (R53). -/
theorem touchBank_wf {s : State} {c : Nat} {x : CpuState} (h : s.cpus.all (CpuState.wf s.params) = true)
    (hx : s.touchBank.cpu? c = some x) : x.wf s.params = true := by
  cases hb : s.bank with
  | none =>
    simp only [State.cpu?, touchBank_of_none hb, List.getElem?_replicate] at hx
    split at hx <;> cases hx
    exact reset_wf _
  | some cpus =>
    rw [touchBank_of_bank hb] at hx
    exact List.all_eq_true.mp h x (mem_cpus_of_cpu? hx)

end Sys2Proof.Laws
end

