-- ==== Sys2Proof/Tests/Slice0.lean ====
section
/-! SUPPORT. The model's own tests, with the expected values of spec/95, and a witness for the hypotheses of every
statement that has some. -/

namespace Sys2Proof.Tests

open Sys2Proof Sys2Proof.Machine

set_option maxRecDepth 100000

/-! ### Small states -/

abbrev P : Params := Params.default

/-- CPU state with nothing pending, in or out of PAL mode, FPE on or off. -/
def cpuWith (pal fpe : Bool) : CpuState := { CpuState.reset P with palMode := pal, pctx := if fpe then 4 else 0 }

/-- CPU state outside PAL mode with every interrupt level enabled and the given pending bits. -/
def cpuPending (irq : BitVec 32) (sirr : BitVec 16) (ipi : Bool) (ier : BitVec 32) (ipl : BitVec 5) : CpuState :=
  { CpuState.reset P with irqPending := irq, sirr := sirr, ipiRequest := ipi, ier := ier, ipl := ipl, palMode := false }

/-- A grain, named by its handler. -/
def grainNo (n : Nat) : Grain := ⟨n, "", 0, 0, Platform.base, .integer, ⟨.operate, false, false⟩, 0, 0⟩

/-- The variant platform of spec/95. -/
def plat1 : Platform := ⟨1⟩

/-- The reset state with this registry and this CPU 0; the registry is sealed. -/
def stateWith (reg : Registry) (x : CpuState) : State := { State.reset with registry := reg, bank := some [some x, some (CpuState.reset P)] }

/-- The reset state with one grain, under the folded key of an opcode and function code, and this CPU 0. -/
def oneGrain (op : Opcode) (fc : FnCode) (pal fpe : Bool) : State :=
  stateWith [(foldKey P op fc Platform.base, grainNo 7)] (cpuWith pal fpe)

def nextOf (r : Result) : Option State :=
  match r with
  | .next s => some s
  | .fault _ => none
  | .refused _ => none

def faultOf (r : Result) : Option Fault :=
  match r with
  | .next _ => none
  | .fault f => some f
  | .refused _ => none

def refusalOf (r : Result) : Option Refusal :=
  match r with
  | .next _ => none
  | .fault _ => none
  | .refused e => some e

def outputsOf (r : Result) : Option (List Output) := (nextOf r).map State.outputs

def cpuOf (r : Result) (c : Nat) : Option CpuState := (nextOf r).bind (fun s => s.cpu? c)

def slotOf (r : Result) (c : Nat) : Option PendingEvent := (cpuOf r c).map CpuState.slot

/-- The word w, fetched by the next step with a grain for its key, is DecodeOut with these components. -/
abbrev decodes (w : Nat) (op : Opcode) (fc : FnCode) (fmt : FormatClass) (unit : ExecUnit) (hw : Bool) : Prop :=
  outputsOf (step ((oneGrain op fc true true).withFetchWord 32 w)) = some [.decoded ⟨grainNo 7, op, fc, fmt, unit, hw⟩]

/-- The word w, fetched by the next step with a grain for its key, traps, and the event records pc and the word (R153). -/
abbrev traps (w : Nat) (op : Opcode) (fc : FnCode) (pal fpe : Bool) (cls : TrapClass) : Prop :=
  slotOf (step ((oneGrain op fc pal fpe).withFetchWord 32 w)) 0 =
    some ⟨.exception, cls, classVector P cls, 0, BitVec.ofNat 64 w, false, false, false⟩

/-! ### Well-formedness: each check refuses an ill-formed term -/

theorem test_wf_default : Params.default.wf = true := by decide

theorem test_wf_format : ({ P with formatOf := [] } : Params).wf = false := by decide

theorem test_wf_unit : ({ P with unitOf := [] } : Params).wf = false := by decide

theorem test_wf_hwInternal : ({ P with hwInternal := [0x19#6, 0x1B#6, 0x1D#6, 0x1E#6, 0x1A#6] } : Params).wf = false := by decide

theorem test_wf_mmStat : ({ P with mmStat := [] } : Params).wf = false := by decide

theorem test_wf_arith : ({ P with arithW := 65 } : Params).wf = false := by decide

theorem test_wf_vectors : ({ P with vectors := [1] } : Params).wf = false := by decide

theorem test_wf_cpus : ({ P with numCpus := 0 } : Params).wf = false := by decide

theorem test_wf_fields : ({ P with fcJump := ⟨25, 2⟩ } : Params).wf = false := by decide

theorem test_state_wf_refuses : (stateWith [] { cpuWith true true with sirr := 1 }).wf = false := by decide

/-! ### Decoding: words written out from the encodings -/

/-- R200, R224, R226 (spec/95 §2.1): opcode, then the fields of the format class. -/
theorem test_decode_callPal_misc_jsr :
    decodeWord 0b00000000000000000000000010000110#32 = .callPal 0b00000000000000000010000110#26 ∧
    decodeWord 0b01100000000000000100000000000000#32 = .misc 0b0000000000#10 0b0100000000000000#16 ∧
    decodeWord 0b01101011111110101000000000000000#32 = .jsr 0b1111111010#10 0b10#2 0b00000000000000#14 := by decide

/-- R201-R207 (spec/95 §2.1): opcode, then the fields of the format class. -/
theorem test_decode_reserved :
    decodeWord 0b00000100000000000000000000000000#32 = .opc01 0b00000000000000000000000000#26 ∧
    decodeWord 0b00001000000000000000000000000000#32 = .opc02 0b00000000000000000000000000#26 ∧
    decodeWord 0b00001100000000000000000000000000#32 = .opc03 0b00000000000000000000000000#26 ∧
    decodeWord 0b00010000000000000000000000000000#32 = .opc04 0b00000000000000000000000000#26 ∧
    decodeWord 0b00010100000000000000000000000000#32 = .opc05 0b00000000000000000000000000#26 ∧
    decodeWord 0b00011000000000000000000000000000#32 = .opc06 0b00000000000000000000000000#26 ∧
    decodeWord 0b00011100000000000000000000000000#32 = .opc07 0b00000000000000000000000000#26 := by decide

/-- R208-R215 (spec/95 §2.1): opcode, then the fields of the format class. -/
theorem test_decode_low_memory :
    decodeWord 0b00100000001000100000000000010000#32 = .lda 0b00001000100000000000010000#26 ∧
    decodeWord 0b00100100001000100000000000010000#32 = .ldah 0b00001000100000000000010000#26 ∧
    decodeWord 0b00101000001000100000000000010000#32 = .ldbu 0b00001000100000000000010000#26 ∧
    decodeWord 0b00101100001000100000000000010000#32 = .ldqU 0b00001000100000000000010000#26 ∧
    decodeWord 0b00110000001000100000000000010000#32 = .ldwu 0b00001000100000000000010000#26 ∧
    decodeWord 0b00110100001000100000000000010000#32 = .stw 0b00001000100000000000010000#26 ∧
    decodeWord 0b00111000001000100000000000010000#32 = .stb 0b00001000100000000000010000#26 ∧
    decodeWord 0b00111100001000100000000000010000#32 = .stqU 0b00001000100000000000010000#26 := by decide

/-- R216-R219, R228 (spec/95 §2.1): opcode, then the fields of the format class. -/
theorem test_decode_integer_operate :
    decodeWord 0b01000000001000100000010000000011#32 = .inta 0b00001000100000#14 0b0100000#7 0b00011#5 ∧
    decodeWord 0b01000100001000100000010000000011#32 = .intl 0b00001000100000#14 0b0100000#7 0b00011#5 ∧
    decodeWord 0b01001000001000100000010000000011#32 = .ints 0b00001000100000#14 0b0100000#7 0b00011#5 ∧
    decodeWord 0b01001100001000100000010000000011#32 = .intm 0b00001000100000#14 0b0100000#7 0b00011#5 ∧
    decodeWord 0b01110000001000100000010000000011#32 = .fpti 0b00001000100000#14 0b0100000#7 0b00011#5 := by decide

/-- R220-R223 (spec/95 §2.1): opcode, then the fields of the format class. -/
theorem test_decode_float_operate :
    decodeWord 0b01010000001000100001010000000011#32 = .itfp 0b0000100010#10 0b00010100000#11 0b00011#5 ∧
    decodeWord 0b01010100001000100001010000000011#32 = .fltv 0b0000100010#10 0b00010100000#11 0b00011#5 ∧
    decodeWord 0b01011000001000100001010000000011#32 = .flti 0b0000100010#10 0b00010100000#11 0b00011#5 ∧
    decodeWord 0b01011100001000100001010000000011#32 = .fltl 0b0000100010#10 0b00010100000#11 0b00011#5 := by decide

/-- R225, R227, R229-R231 (spec/95 §2.1): opcode, then the fields of the format class. -/
theorem test_decode_hw_internal :
    decodeWord 0b01100100001000100000000001000001#32 = .hwMfpr 0b00001000100000000001000001#26 ∧
    decodeWord 0b01101100001000100000000001000001#32 = .hwLd 0b00001000100000000001000001#26 ∧
    decodeWord 0b01110100001000100000000001000001#32 = .hwMtpr 0b00001000100000000001000001#26 ∧
    decodeWord 0b01111000001000100000000001000001#32 = .hwRei 0b00001000100000000001000001#26 ∧
    decodeWord 0b01111100001000100000000001000001#32 = .hwSt 0b00001000100000000001000001#26 := by decide

/-- R232-R239 (spec/95 §2.1): opcode, then the fields of the format class. -/
theorem test_decode_float_memory :
    decodeWord 0b10000000001000100000000000010000#32 = .ldf 0b00001000100000000000010000#26 ∧
    decodeWord 0b10000100001000100000000000010000#32 = .ldg 0b00001000100000000000010000#26 ∧
    decodeWord 0b10001000001000100000000000010000#32 = .lds 0b00001000100000000000010000#26 ∧
    decodeWord 0b10001100001000100000000000010000#32 = .ldt 0b00001000100000000000010000#26 ∧
    decodeWord 0b10010000001000100000000000010000#32 = .stf 0b00001000100000000000010000#26 ∧
    decodeWord 0b10010100001000100000000000010000#32 = .stg 0b00001000100000000000010000#26 ∧
    decodeWord 0b10011000001000100000000000010000#32 = .sts 0b00001000100000000000010000#26 ∧
    decodeWord 0b10011100001000100000000000010000#32 = .stt 0b00001000100000000000010000#26 := by decide

/-- R240-R247 (spec/95 §2.1): opcode, then the fields of the format class. -/
theorem test_decode_high_memory :
    decodeWord 0b10100000001000100000000000010000#32 = .ldl 0b00001000100000000000010000#26 ∧
    decodeWord 0b10100100001000100000000000010000#32 = .ldq 0b00001000100000000000010000#26 ∧
    decodeWord 0b10101000001000100000000000010000#32 = .ldlL 0b00001000100000000000010000#26 ∧
    decodeWord 0b10101100001000100000000000010000#32 = .ldqL 0b00001000100000000000010000#26 ∧
    decodeWord 0b10110000001000100000000000010000#32 = .stl 0b00001000100000000000010000#26 ∧
    decodeWord 0b10110100001000100000000000010000#32 = .stq 0b00001000100000000000010000#26 ∧
    decodeWord 0b10111000001000100000000000010000#32 = .stlC 0b00001000100000000000010000#26 ∧
    decodeWord 0b10111100001000100000000000010000#32 = .stqC 0b00001000100000000000010000#26 := by decide

/-- R249-R251, R253-R255 (spec/95 §2.1): opcode, then the fields of the format class. -/
theorem test_decode_float_branch :
    decodeWord 0b11000100001000000000000000000100#32 = .fbeq 0b00001000000000000000000100#26 ∧
    decodeWord 0b11001000001000000000000000000100#32 = .fblt 0b00001000000000000000000100#26 ∧
    decodeWord 0b11001100001000000000000000000100#32 = .fble 0b00001000000000000000000100#26 ∧
    decodeWord 0b11010100001000000000000000000100#32 = .fbne 0b00001000000000000000000100#26 ∧
    decodeWord 0b11011000001000000000000000000100#32 = .fbge 0b00001000000000000000000100#26 ∧
    decodeWord 0b11011100001000000000000000000100#32 = .fbgt 0b00001000000000000000000100#26 := by decide

/-- R248, R252, R256-R263 (spec/95 §2.1): opcode, then the fields of the format class. -/
theorem test_decode_integer_branch :
    decodeWord 0b11000000001000000000000000000100#32 = .br 0b00001000000000000000000100#26 ∧
    decodeWord 0b11010000001000000000000000000100#32 = .bsr 0b00001000000000000000000100#26 ∧
    decodeWord 0b11100000001000000000000000000100#32 = .blbc 0b00001000000000000000000100#26 ∧
    decodeWord 0b11100100001000000000000000000100#32 = .beq 0b00001000000000000000000100#26 ∧
    decodeWord 0b11101000001000000000000000000100#32 = .blt 0b00001000000000000000000100#26 ∧
    decodeWord 0b11101100001000000000000000000100#32 = .ble 0b00001000000000000000000100#26 ∧
    decodeWord 0b11110000001000000000000000000100#32 = .blbs 0b00001000000000000000000100#26 ∧
    decodeWord 0b11110100001000000000000000000100#32 = .bne 0b00001000000000000000000100#26 ∧
    decodeWord 0b11111000001000000000000000000100#32 = .bge 0b00001000000000000000000100#26 ∧
    decodeWord 0b11111100001000000000000000000100#32 = .bgt 0b00001000000000000000000100#26 := by decide

/-- Fewer than four bytes are no instruction; in either byte order the word is the same (R91). -/
theorem test_decode_bytes :
    decodeBytes .little [0x10, 0x00, 0x22, 0xA4] = .ok (.ldq 0x220010, []) ∧
    decodeBytes .big [0xA4, 0x22, 0x00, 0x10, 0xFF] = .ok (.ldq 0x220010, [0xFF]) ∧
    decodeBytes .little [0x10, 0x00, 0x22] = .error .truncated := by decide

/-- spec/95 §2.2: the extracted function codes at the ends of their ranges. -/
theorem test_extractFc :
    [0x03FFFFFF#32, 0x00010000#32, 0x43E00FE0#32, 0x43E0101F#32, 0x5BFFFFFF#32, 0x6000FFFF#32, 0x68004000#32, 0x6BFFBFFF#32,
      0x67FFFFFF#32, 0xA7FFFFFF#32, 0xFFFFFFFF#32, 0x1FFFFFFF#32].map (extractFc P) =
    [0x3FFFFFF#26, 0x10000#26, 0x7F#26, 0#26, 0x7FF#26, 0xFFFF#26, 1#26, 2#26, 0x3FFFFFF#26, 0#26, 0#26, 0#26] := by decide

/-! ### Running the instruction that stands next -/

/-- R200, R224, R226: DecodeOut with a grain, PAL mode and FPE on (spec/95 §2.1). -/
theorem test_run_callPal_misc_jsr :
    decodes 0x00000086 0x00 0x86 .pal .controlPal false ∧
    decodes 0x60004000 0x18 0x4000 .memoryBarrier .memory false ∧
    decodes 0x6BFA8000 0x1A 0x2 .jump .controlPal false := by decide

/-- R201-R207: reserved even with a grain registered (R119) (spec/95 §2.1). -/
theorem test_run_reserved :
    traps 0x04000000 0x01 0 true true .illegalInstruction ∧
    traps 0x08000000 0x02 0 true true .illegalInstruction ∧
    traps 0x0C000000 0x03 0 true true .illegalInstruction ∧
    traps 0x10000000 0x04 0 true true .illegalInstruction ∧
    traps 0x14000000 0x05 0 true true .illegalInstruction ∧
    traps 0x18000000 0x06 0 true true .illegalInstruction ∧
    traps 0x1C000000 0x07 0 true true .illegalInstruction := by decide

/-- R208-R215: DecodeOut with a grain, PAL mode and FPE on (spec/95 §2.1). -/
theorem test_run_low_memory :
    decodes 0x20220010 0x08 0x0 .memory .memory false ∧
    decodes 0x24220010 0x09 0x0 .memory .memory false ∧
    decodes 0x28220010 0x0A 0x0 .memory .memory false ∧
    decodes 0x2C220010 0x0B 0x0 .memory .memory false ∧
    decodes 0x30220010 0x0C 0x0 .memory .memory false ∧
    decodes 0x34220010 0x0D 0x0 .memory .memory false ∧
    decodes 0x38220010 0x0E 0x0 .memory .memory false ∧
    decodes 0x3C220010 0x0F 0x0 .memory .memory false := by decide

/-- R216-R219, R228: DecodeOut with a grain, PAL mode and FPE on (spec/95 §2.1). -/
theorem test_run_integer_operate :
    decodes 0x40220403 0x10 0x20 .operate .integer false ∧
    decodes 0x44220403 0x11 0x20 .operate .integer false ∧
    decodes 0x48220403 0x12 0x20 .operate .integer false ∧
    decodes 0x4C220403 0x13 0x20 .operate .integer false ∧
    decodes 0x70220403 0x1C 0x20 .operate .integer false := by decide

/-- R220-R223: DecodeOut with a grain, PAL mode and FPE on (spec/95 §2.1). -/
theorem test_run_float_operate :
    decodes 0x50221403 0x14 0xA0 .float .float false ∧
    decodes 0x54221403 0x15 0xA0 .float .float false ∧
    decodes 0x58221403 0x16 0xA0 .float .float false ∧
    decodes 0x5C221403 0x17 0xA0 .float .float false := by decide

/-- R220-R223: FP_DISABLED with FPE off (spec/95 §2.1). -/
theorem test_fpe_float_operate :
    traps 0x50221403 0x14 0xA0 true false .fpDisabled ∧
    traps 0x54221403 0x15 0xA0 true false .fpDisabled ∧
    traps 0x58221403 0x16 0xA0 true false .fpDisabled ∧
    traps 0x5C221403 0x17 0xA0 true false .fpDisabled := by decide

/-- R225, R227, R229-R231: DecodeOut with a grain, PAL mode and FPE on (spec/95 §2.1). -/
theorem test_run_hw_internal :
    decodes 0x64220041 0x19 0x220041 .pal .hwInternal true ∧
    decodes 0x6C220041 0x1B 0x220041 .pal .hwInternal true ∧
    decodes 0x74220041 0x1D 0x220041 .pal .hwInternal true ∧
    decodes 0x78220041 0x1E 0x220041 .pal .hwInternal true ∧
    decodes 0x7C220041 0x1F 0x220041 .pal .hwInternal true := by decide

/-- R225, R227, R229-R231: illegal outside PAL mode (spec/95 §2.1). -/
theorem test_mode_hw_internal :
    traps 0x64220041 0x19 0 false true .illegalInstruction ∧
    traps 0x6C220041 0x1B 0 false true .illegalInstruction ∧
    traps 0x74220041 0x1D 0 false true .illegalInstruction ∧
    traps 0x78220041 0x1E 0 false true .illegalInstruction ∧
    traps 0x7C220041 0x1F 0 false true .illegalInstruction := by decide

/-- R232-R239: DecodeOut with a grain, PAL mode and FPE on (spec/95 §2.1). -/
theorem test_run_float_memory :
    decodes 0x80220010 0x20 0x0 .memory .memory false ∧
    decodes 0x84220010 0x21 0x0 .memory .memory false ∧
    decodes 0x88220010 0x22 0x0 .memory .memory false ∧
    decodes 0x8C220010 0x23 0x0 .memory .memory false ∧
    decodes 0x90220010 0x24 0x0 .memory .memory false ∧
    decodes 0x94220010 0x25 0x0 .memory .memory false ∧
    decodes 0x98220010 0x26 0x0 .memory .memory false ∧
    decodes 0x9C220010 0x27 0x0 .memory .memory false := by decide

/-- R232-R239: FP_DISABLED with FPE off (spec/95 §2.1). -/
theorem test_fpe_float_memory :
    traps 0x80220010 0x20 0x0 true false .fpDisabled ∧
    traps 0x84220010 0x21 0x0 true false .fpDisabled ∧
    traps 0x88220010 0x22 0x0 true false .fpDisabled ∧
    traps 0x8C220010 0x23 0x0 true false .fpDisabled ∧
    traps 0x90220010 0x24 0x0 true false .fpDisabled ∧
    traps 0x94220010 0x25 0x0 true false .fpDisabled ∧
    traps 0x98220010 0x26 0x0 true false .fpDisabled ∧
    traps 0x9C220010 0x27 0x0 true false .fpDisabled := by decide

/-- R240-R247: DecodeOut with a grain, PAL mode and FPE on (spec/95 §2.1). -/
theorem test_run_high_memory :
    decodes 0xA0220010 0x28 0x0 .memory .memory false ∧
    decodes 0xA4220010 0x29 0x0 .memory .memory false ∧
    decodes 0xA8220010 0x2A 0x0 .memory .memory false ∧
    decodes 0xAC220010 0x2B 0x0 .memory .memory false ∧
    decodes 0xB0220010 0x2C 0x0 .memory .memory false ∧
    decodes 0xB4220010 0x2D 0x0 .memory .memory false ∧
    decodes 0xB8220010 0x2E 0x0 .memory .memory false ∧
    decodes 0xBC220010 0x2F 0x0 .memory .memory false := by decide

/-- R249-R251, R253-R255: DecodeOut with a grain, PAL mode and FPE on (spec/95 §2.1). -/
theorem test_run_float_branch :
    decodes 0xC4200004 0x31 0x0 .branch .controlPal false ∧
    decodes 0xC8200004 0x32 0x0 .branch .controlPal false ∧
    decodes 0xCC200004 0x33 0x0 .branch .controlPal false ∧
    decodes 0xD4200004 0x35 0x0 .branch .controlPal false ∧
    decodes 0xD8200004 0x36 0x0 .branch .controlPal false ∧
    decodes 0xDC200004 0x37 0x0 .branch .controlPal false := by decide

/-- R249-R251, R253-R255: FP_DISABLED with FPE off (spec/95 §2.1). -/
theorem test_fpe_float_branch :
    traps 0xC4200004 0x31 0x0 true false .fpDisabled ∧
    traps 0xC8200004 0x32 0x0 true false .fpDisabled ∧
    traps 0xCC200004 0x33 0x0 true false .fpDisabled ∧
    traps 0xD4200004 0x35 0x0 true false .fpDisabled ∧
    traps 0xD8200004 0x36 0x0 true false .fpDisabled ∧
    traps 0xDC200004 0x37 0x0 true false .fpDisabled := by decide

/-- R248, R252, R256-R263: DecodeOut with a grain, PAL mode and FPE on (spec/95 §2.1). -/
theorem test_run_integer_branch :
    decodes 0xC0200004 0x30 0x0 .branch .controlPal false ∧
    decodes 0xD0200004 0x34 0x0 .branch .controlPal false ∧
    decodes 0xE0200004 0x38 0x0 .branch .controlPal false ∧
    decodes 0xE4200004 0x39 0x0 .branch .controlPal false ∧
    decodes 0xE8200004 0x3A 0x0 .branch .controlPal false ∧
    decodes 0xEC200004 0x3B 0x0 .branch .controlPal false ∧
    decodes 0xF0200004 0x3C 0x0 .branch .controlPal false ∧
    decodes 0xF4200004 0x3D 0x0 .branch .controlPal false ∧
    decodes 0xF8200004 0x3E 0x0 .branch .controlPal false ∧
    decodes 0xFC200004 0x3F 0x0 .branch .controlPal false := by decide

/-- spec/95 §2.4: without a grain the FP word is illegal before the FPE check. -/
theorem test_run_check_order :
    slotOf (step ((oneGrain 0x16 0xA0 true false).withFetchWord 32 0x58221423)) 0 =
      some ⟨.exception, .illegalInstruction, 9, 0, 0x58221423, false, false, false⟩ := by decide

/-- The host's probe: decoding a table word, and running it right after reset. -/
theorem test_host_probe :
    decodeTableWord 32 0x44220403 = some (.intl 0x220 0x20 3) ∧
    (nextOf (step (State.reset.withFetchWord 32 0x44220403))).isSome = true := by decide

/-! ### Registry (spec/95 §2.3) -/

def reg23 : Registry :=
  [(⟨0x11, 0x20, Platform.base⟩, grainNo 0), (⟨0x11, 0x20, plat1⟩, grainNo 2), (⟨0x19, 0, Platform.base⟩, grainNo 3),
   (⟨0x19, 0, plat1⟩, grainNo 5), (⟨0x00, 0x86, Platform.base⟩, grainNo 6), (⟨0x00, 0x10086, Platform.base⟩, grainNo 7)]

theorem test_register_duplicate :
    registerGrain P reg23 0x11 0x20 Platform.base (grainNo 1) = (false, reg23) ∧
    registerGrain P reg23 0x19 2 Platform.base (grainNo 4) = (false, reg23) := by decide

theorem test_lookup :
    [lookupGrain P reg23 0x11 0x20 plat1, lookupGrain P reg23 0x11 0x20 ⟨2⟩, lookupGrain P reg23 0x11 0x21 plat1,
      lookupGrain P reg23 0x19 0x1234 Platform.base, lookupGrain P reg23 0x19 0 ⟨2⟩, lookupGrain P reg23 0 0x86 plat1,
      lookupGrain P reg23 0 0x3000086 Platform.base, resolveGrain P reg23 plat1 0x64220041].map (Option.map Grain.handler) =
    [some 2, some 0, none, some 3, some 3, some 6, none, some 3] := by decide

/-! ### Classifier (spec/95 §2.7-§2.9) -/

theorem test_unaligned_fetch :
    slotOf (reportTranslationFault 0 .unaligned true 0x5000 true State.reset) 0 =
      some ⟨.exception, .alignment, 11, 0x5000, 8, false, true, true⟩ := by decide

theorem test_bus_error :
    slotOf (reportTranslationFault 0 .busError false 0x5000 true State.reset) 0 =
      some ⟨.exception, .machineCheck, 10, 0x5000, 9, true, false, false⟩ := by decide

theorem test_mmStat : decodeMMStat P 0b1011 true = .acvWrite ∧ decodeMMStat P 0xFF false = .none := by decide

theorem test_arith :
    slotOf (reportArith 0 0x8000000000000000 State.reset) 0 =
      some ⟨.exception, .arithmetic, 1, 0, 0x8000000000000000, false, false, false⟩ := by decide

/-! ### Arbiter (spec/95 §2.6, §2.10, §2.11) -/

theorem test_eligibility :
    computeEligibility 0b0110 0b0100 .user 1 = ⟨true, .supervisor⟩ ∧
    (computeEligibility 0b0001 0b1110 .kernel 0).eligible = false := by decide

theorem test_eligibility_ipl :
    computeEligibility 0b1111 0b1111 .user 2 = ⟨true, .kernel⟩ ∧
    (computeEligibility 0b1111 0b1111 .user 3).eligible = false := by decide

theorem test_levels :
    [intrLevel P (cpuPending 0x100000 0 false 0xFFFFFFFF 15), intrLevel P (cpuPending 0x100000 0 false 0xFFFFFFFF 20),
      intrLevel P (cpuPending 1 0 false 0xFFFFFFFF 0), intrLevel P (cpuPending 0 0 true 0xFFFFFFFF 0),
      intrLevel P (cpuPending 0 0x202 false 0xFFFFFFFF 0), intrLevel P (cpuPending 0x80000000 0x8000 false 0xFFFFFFFF 30)] =
    [some 20, none, none, some 22, some 9, some 31] := by decide

theorem test_priority :
    (arbitrate P { cpuPending 4 0 false 0xFFFFFFFF 2 with cm := 3, pctx := 0x1100 }).info = 3 ∧
    (arbitrate P { cpuPending 4 0 false 0xFFFFFFFF 1 with cm := 3, pctx := 0x1100 }).kind = .interrupt ∧
    (arbitrate P { cpuPending 0 0 false 0xFFFFFFFF 0 with cm := 0, pctx := 0x1100 }).kind = .none := by decide

/-! ### Dispatcher (spec/95 §2.12, §2.13) -/

def dtbMiss : PendingEvent := exceptionEvent P .dtbMiss 0x1000 1 ⟨true, false, false⟩

def alignment : PendingEvent := exceptionEvent P .alignment 0x2003 8 ⟨false, false, true⟩

def machineCheck : PendingEvent := exceptionEvent P .machineCheck 0 0x77 ⟨false, false, false⟩

/-- CPU state whose slot holds the event. -/
def cpuHolding (e : PendingEvent) : CpuState := { cpuWith false false with slot := e }

theorem test_double_fault :
    (postEvent P (cpuHolding dtbMiss) alignment).slot = ⟨.exception, .doubleFault, 12, 0x1000, 1, true, false, false⟩ := by decide

theorem test_terminal_kept : (postEvent P (cpuHolding machineCheck) dtbMiss).slot = machineCheck := by decide

theorem test_fault_query :
    hasPendingTranslationFault (cpuHolding dtbMiss) 0 = true ∧ hasPendingTranslationFault (cpuHolding dtbMiss) 0x1000 = true ∧
    hasPendingTranslationFault (cpuHolding dtbMiss) 0x1004 = false ∧
    hasPendingTranslationFault (cpuHolding machineCheck) 0 = false := by decide

/-! ### PalResult (spec/95 S12, S13, §2.14) -/

theorem test_pal_masks :
    (PalResult.build P [.tlbModified, .drainWriteBuffers]).sideEffects = 0x9#32 ∧
    (PalResult.build P [.halt 5]).sideEffects = 0x60#32 ∧ (PalResult.build P [.halt 5]).haltCode = 5 := by decide

theorem test_pal_deltas :
    (applyToCpu (cpuWith true false) (PalResult.build P [.newPS 0x18, .newIPL 0x15, .newASN 0xA5, .doesReturn])).cm = 3 ∧
    (applyToCpu (cpuWith true false) (PalResult.build P [.newPS 0x18, .newIPL 0x15, .newASN 0xA5, .doesReturn])).ipl = 0x15 ∧
    (applyToCpu (cpuWith true false) (PalResult.build P [.newPS 0x18, .newIPL 0x15, .newASN 0xA5, .doesReturn])).asn = 0xA5 ∧
    (applyToCpu (cpuWith true false) (PalResult.build P [.newPS 0x18, .newIPL 0x15, .newASN 0xA5, .doesReturn])).palMode = false := by
  decide

theorem test_pal_order :
    allowedOrder 0x11 [.tlbModified, .pipelineFlush] = false ∧ allowedOrder 0x11 [.pipelineFlush, .tlbModified] = true ∧
    actionsOf (PalResult.build P [.halt 5, .tlbModified, .requestPipelineFlush 0]) [] =
      [.pipelineFlush, .tlbModified, .halt, .notifyHalt] := by decide

/-- R352: the two halt effects come last, in either order. -/
theorem test_pal_halt_order :
    allowedOrder 0x61 [.tlbModified, .notifyHalt, .halt] = true ∧ allowedOrder 0x61 [.tlbModified, .halt, .notifyHalt] = true ∧
    allowedOrder 0x61 [.halt, .tlbModified, .notifyHalt] = false ∧ allowedOrder 0x61 [.tlbModified] = false ∧
    actionsOf (PalResult.build P [.halt 5]) [.notifyHalt, .halt] = [.notifyHalt, .halt] := by decide

/-! ### Vector ids, the VECTOR class, acquires, and the bank's end (R60, R63, R119, R96, R432, R504) -/

theorem test_vectors_have_vec_w_bits :
    (postEvent P (cpuWith false false) { dtbMiss with vector := 0x10003 }).slot.vector = 3 ∧
    (PalResult.build P [.raiseException 0x10003]).excVector = 3 ∧
    (PalResult.empty.cut P).excVector = 0 := by decide

/-- An opcode FORMAT_OF places in VECTOR is illegal, though UNIT_OF routes it to a unit and it has a grain. -/
theorem test_vector_class_is_illegal :
    decide151 { P with formatOf := P.formatOf.set 0x10 .vector } [(⟨0x10, 0, Platform.base⟩, grainNo 7)] Platform.base false false
      0x40220403#32 = .trap .illegalInstruction := by decide

/-- The same for the class UNKNOWN, and for one of 0x01 to 0x07 that UNIT_OF alone makes real (R272, R275). -/
theorem test_unknown_class_is_illegal :
    decide151 { P with formatOf := P.formatOf.set 0x10 .unknown } [(⟨0x10, 0, Platform.base⟩, grainNo 7)] Platform.base false false
      0x40220403#32 = .trap .illegalInstruction ∧
    decide151 { P with unitOf := P.unitOf.set 0x05 .integer } [(⟨0x05, 0, Platform.base⟩, grainNo 7)] Platform.base false false
      0x14000000#32 = .trap .illegalInstruction := by decide

/-- The reserved MM-status code is no fault, whatever the table says (R311). -/
theorem test_mmStat_reserved : decodeMMStat { P with mmStat := List.replicate 8 (.acvRead, .acvWrite) } 7 true = .none := by
  decide

/-- A query that sees IPI_REQUEST = 1 orders the later read of IPI_DATA, whatever is seen after it. -/
theorem test_query_is_an_acquire :
    outputsOf (readF 0 0 .ipiData ((nextOf (perform (.cpu 0) (.eventPendingState 0)
      (stateWith [] { cpuWith true true with ipiRequest := true, ipiData := 0x42 }))).getD State.reset)) = some [.value 0x42] ∧
    outputsOf (readF 0 0 .ipiData ((nextOf (readF 0 0 .ipiRequest
      (stateWith [] { cpuWith true true with ipiSeen := [0], ipiData := 0x42 }))).getD State.reset)) = some [.value 0x42] := by decide

/-- `consumeEvent` with an exception in the slot returns it before IPI_REQUEST is read (R430 step 2). -/
theorem test_consume_exception_observes_no_request :
    (cpuOf (consumeEvent 0 (stateWith [] { cpuHolding dtbMiss with ipiRequest := true })) 0).map CpuState.ipiSeen = some [] := by
  decide

theorem test_no_operation_after_deregistration :
    refusalOf (step { (nextOf (deregisterCpu 1 State.reset)).getD State.reset with requests := [⟨.cpu 1, .readF 1 .ipl⟩] }) =
      some .cpuOutOfRange ∧
    outputsOf (step { (nextOf (deregisterCpu 1 State.reset)).getD State.reset with requests := [⟨.cpu 0, .readF 0 .ipl⟩] }) =
      some [.value 31] ∧
    refusalOf (step { (nextOf (shutdownBank State.reset)).getD State.reset with requests := [⟨.cpu 0, .readF 0 .ipl⟩] }) =
      some .cpuOutOfRange := by decide

/-! ### Accessors and reset (spec/95 §2.16) -/

theorem test_masks :
    (writeField P (cpuWith true true) .sirr 0xFFFFFFFF).map CpuState.sirr = some 0xFFFE#16 ∧
    (writeField P (cpuWith true true) .pctx 0xFFFFFFFFFFFFFFFF).map CpuState.pctx = some 0x00007F8000001FE6#64 ∧
    (writeField P (cpuWith true true) .palBase 0xFFFFFFFFFFFFFFFF).map CpuState.palBase = some 0x00000FFFFFFF8000#64 := by decide

theorem test_reset_state : State.reset.wf = true ∧ State.reset.isSealed = true ∧ State.reset.cpus.length = 2 := by decide

/-! ### Witnesses: the hypotheses of every statement can be met, and each of its clauses -/

/-- A CPU of the bank that is halted. -/
def cpuHalted : CpuState := { cpuWith true false with halted := true, haltCode := 0xDEAD }

/-- The reset state with nothing registered and this CPU 0. -/
abbrev bare (x : CpuState) : State := stateWith [] x

/-- The same, before the seal. -/
abbrev unsealed (x : CpuState) : State := { bare x with isSealed := false }

/-- An interrupt deliverable at level 20, and an AST deliverable to User. -/
def cpuInterrupt : CpuState := cpuPending 0x100000 0 false 0xFFFFFFFF 0

def cpuAst : CpuState := { cpuPending 0 0 false 0xFFFFFFFF 2 with cm := 3, pctx := 0x1100 }

theorem witness_StepRunsTheDecodedInstruction :
    let s : State := { State.reset with requests := [⟨.cpu 1, .decode 1 0xA4220010 0x1000⟩] }
    decodeBytes s.params.fetchByteOrder [0x10, 0x00, 0x22, 0xA4, 0xFF] = .ok (.ldq 0x220010, [0xFF]) ∧
    s.requests = [⟨.cpu 1, .decode 1 (assembleWord s.params.fetchByteOrder 0x10 0x00 0x22 0xA4) 0x1000⟩] ∧
    s.touchBank.cpu? 1 = some (CpuState.reset P) ∧ (CpuState.reset P).busy = none := by decide

theorem witness_PlacedWordIsTheNextInstruction :
    State.reset.touchBank.cpu? 0 = some (CpuState.reset P) ∧ (CpuState.reset P).busy = none := by decide

theorem witness_InstructionBytesReadBack : ([] : List Byte).length < 4 ∧ ([1, 2, 3] : List Byte).length < 4 := by decide

theorem witness_FunctionCodeIsTheFormatsField : DefaultTables P := by decide

/-- LDQ with two displacements: delivered with a grain, trapping without, stopping halted and unsealed. -/
theorem witness_UnreadBitsDoNotAffectDecode :
    opcodeOf 0xA4220010#32 = opcodeOf 0xA7FFFFFF#32 ∧ extractFc P 0xA4220010#32 = extractFc P 0xA7FFFFFF#32 ∧
    outputsOf (exec (decodeWord 0xA4220010#32) (oneGrain 0x29 0 true true)) =
      some [.decoded ⟨grainNo 7, 0x29, 0, .memory, .memory, false⟩] ∧
    outputsOf (exec (decodeWord 0xA4220010#32) State.reset) = some [] ∧
    faultOf (exec (decodeWord 0xA4220010#32) (bare cpuHalted)) = some .cpuHalted ∧
    refusalOf (exec (decodeWord 0xA4220010#32) (unsealed (cpuWith true true))) = some .registryUnsealed := by decide

/-- The premises of `DecodesPlain`, with a grain at the key, at its BASE fallback, and with none. -/
theorem witness_DecodesPlain :
    DefaultTables P ∧ AtBoundary (oneGrain 0x00 0x86 true true) (cpuWith true true) ∧ (cpuWith true true).wf P = true ∧
    lookupGrain P (oneGrain 0x00 0x86 true true).registry 0x00 0x86 (oneGrain 0x00 0x86 true true).activePlatform =
      some (grainNo 7) ∧
    lookupGrain P (oneGrain 0x18 0x4000 true true).registry 0x18 0x4000 plat1 = some (grainNo 7) ∧
    lookupGrain P (oneGrain 0x1A 2 true true).registry 0x1A 1 Platform.base = none := by decide

/-- The premises of `DecodesReserved`. -/
theorem witness_DecodesReserved :
    DefaultTables P ∧ AtBoundary (oneGrain 0x05 0 true true) (cpuWith true true) ∧ (cpuWith true true).wf P = true := by decide

/-- The premises of `DecodesFp`: with a grain and FPE on or off, and without a grain. -/
theorem witness_DecodesFp :
    DefaultTables P ∧ AtBoundary (oneGrain 0x16 0xA0 true true) (cpuWith true true) ∧
    AtBoundary (oneGrain 0x16 0xA0 true false) (cpuWith true false) ∧ (cpuWith true false).wf P = true ∧
    lookupGrain P (oneGrain 0x16 0xA0 true true).registry 0x16 0xA0 Platform.base = some (grainNo 7) ∧
    lookupGrain P (oneGrain 0x16 0xA0 true true).registry 0x16 0xA1 Platform.base = none ∧
    (cpuWith true true).pctx.getLsbD 2 = true ∧ (cpuWith true false).pctx.getLsbD 2 = false := by decide

/-- The premises of `DecodesHw`: in PAL mode with and without a grain, and outside PAL mode. -/
theorem witness_DecodesHw :
    DefaultTables P ∧ AtBoundary (oneGrain 0x19 0 true true) (cpuWith true true) ∧
    AtBoundary (oneGrain 0x19 0 false true) (cpuWith false true) ∧ (cpuWith false true).wf P = true ∧
    lookupGrain P (oneGrain 0x19 0 true true).registry 0x19 0x3FFFFFF Platform.base = some (grainNo 7) ∧
    lookupGrain P (oneGrain 0x19 0 true true).registry 0x1B 0 Platform.base = none ∧
    ¬ (P.hwintRequiresPal = false ∨ (cpuWith false true).palMode = true) ∧
    (({ P with hwintRequiresPal := false } : Params).hwintRequiresPal = false ∧
      DefaultTables { P with hwintRequiresPal := false }) := by decide

/-- One word for each check: no unit, outside PAL mode, no grain, FPE off, delivered. -/
theorem witness_DecodeStageChecksInOrder :
    AtBoundary (oneGrain 0x16 0xA0 false false) (cpuWith false false) ∧ (cpuWith false false).wf P = true ∧
    route P (opcodeOf 0x14000000#32) = .unknown ∧
    formatOf { P with formatOf := P.formatOf.set 0x10 .vector } (opcodeOf 0x40220403#32) = .vector ∧
    formatOf { P with formatOf := P.formatOf.set 0x10 .unknown } (opcodeOf 0x40220403#32) = .unknown ∧
    (isHardwareInternal P (opcodeOf 0x64220041#32) = true ∧ P.hwintRequiresPal = true ∧ (cpuWith false false).palMode = false) ∧
    (route P (opcodeOf 0x58221423#32) = .float ∧ isHardwareInternal P (opcodeOf 0x58221423#32) = false ∧
      lookupGrain P (oneGrain 0x16 0xA0 false false).registry 0x16 (extractFc P 0x58221423#32) Platform.base = none) ∧
    (lookupGrain P (oneGrain 0x16 0xA0 false false).registry 0x16 (extractFc P 0x58221403#32) Platform.base = some (grainNo 7) ∧
      isFpOpcode P 0x16 = true ∧ (cpuWith false false).pctx.getLsbD 2 = false) ∧
    (AtBoundary (oneGrain 0x16 0xA0 false true) (cpuWith false true) ∧ (cpuWith false true).pctx.getLsbD 2 = true) := by decide

theorem witness_DecodeStopsByName :
    ({ State.reset with current := ⟨2, 0⟩ } : State).touchBank.cpu? 2 = none ∧
    ((bare cpuHalted).touchBank.cpu? 0 = some cpuHalted ∧ cpuHalted.halted = true) ∧
    ((unsealed (cpuWith true true)).touchBank.cpu? 0 = some (cpuWith true true) ∧ (cpuWith true true).halted = false ∧
      (unsealed (cpuWith true true)).isSealed = false) ∧
    ((bare cpuInterrupt).touchBank.cpu? 0 = some cpuInterrupt ∧ cpuInterrupt.halted = false ∧ (bare cpuInterrupt).isSealed = true ∧
      (arbitrate P cpuInterrupt).kind ≠ .none) := by decide

/-- Both ways an instruction ends: with an output, and with a trap. -/
theorem witness_DecodeChangesOnlyTheSlot :
    outputsOf (exec (.lda 0) (oneGrain 0x08 0 true true)) = some [.decoded ⟨grainNo 7, 0x08, 0, .memory, .memory, false⟩] ∧
    outputsOf (exec (.lda 0) State.reset) = some [] := by decide

theorem witness_SealSeparatesRegistrationFromLookup :
    State.reset.isSealed = true ∧ (unsealed (cpuWith true true)).isSealed = false ∧
    (unsealed (cpuWith true true)).touchBank.cpu? 0 = some (cpuWith true true) ∧ (cpuWith true true).halted = false := by decide

/-- A held key (folded) and a new one. -/
theorem witness_RegisterStoresUnderTheFoldedKey :
    State.reset.isSealed = true ∧ (unsealed (cpuWith true true)).isSealed = false ∧
    (grainAt reg23 ⟨0x19, if isHardwareInternal P 0x19 then 0 else 0x41, plat1⟩).isSome = true ∧
    grainAt reg23 ⟨0x11, if isHardwareInternal P 0x11 then 0 else 0x21, plat1⟩ = none := by decide

theorem witness_RegistryRoundTrip :
    (unsealed (cpuWith true true)).isSealed = false ∧
    grainAt (unsealed (cpuWith true true)).registry (foldKey P 0x1F 0x3FFFFFF plat1) = none := by decide

theorem witness_OnlyHardwareInternalCodesFold :
    isHardwareInternal P 0x19 = true ∧ grainAt [] ⟨0x19, 0, plat1⟩ = none ∧ isHardwareInternal P 0x1A = false ∧
    (0#26) ≠ 1#26 := by decide

/-- The exact key, the BASE fallback, no key on a variant, no key on BASE. -/
theorem witness_LookupFallsBackOnceToBase :
    (unsealed (cpuWith true true)).isSealed = false ∧ State.reset.isSealed = true ∧ grainAt reg23 ⟨0x11, 0x20, plat1⟩ = some (grainNo 2) ∧
    (grainAt reg23 ⟨0x11, 0x20, ⟨2⟩⟩ = none ∧ (⟨2⟩ : Platform) ≠ Platform.base ∧
      grainAt reg23 ⟨0x11, 0x20, Platform.base⟩ = some (grainNo 0)) ∧
    (grainAt reg23 ⟨0x11, 0x21, plat1⟩ = none ∧ grainAt reg23 ⟨0x11, 0x21, Platform.base⟩ = none) := by decide

/-- HW_MTPR registered under a variant only, as in program P4 of spec/95. -/
theorem witness_HardwareInternalGrainsLiveUnderBase :
    let s : State := stateWith [(⟨0x1D, 0, plat1⟩, grainNo 2)] (cpuWith true true)
    isHardwareInternal P (opcodeOf 0x5C020403#32) = false ∧ s.isSealed = true ∧
    isHardwareInternal P (opcodeOf 0x7422FFFF#32) = true ∧
    ∀ e ∈ s.registry, e.1.opcode = opcodeOf 0x7422FFFF#32 → e.1.platform ≠ Platform.base := by decide

theorem witness_SealedTablesAreReadOnly :
    State.reset.isSealed = true ∧ (nextOf (step (State.reset.withFetchWord 32 0))).isSome = true := by decide

theorem witness_AstTargetIsMostPrivileged :
    AstCandidate 0b1111 0b1010 .supervisor .executive ∧ ¬ AstCandidate 0b1111 0b1010 .supervisor .user ∧
    (computeEligibility 0b1111 0b1010 .supervisor 2).eligible = true ∧
    (computeEligibility 0b1111 0b1010 .supervisor 3).eligible = false := by decide

/-- The levels at the ends of the range. -/
theorem witness_InterruptLevelIsTheHighestDeliverable :
    Deliverable P (cpuPending 0 2 false 0xFFFFFFFF 0) 1 ∧ Deliverable P (cpuPending 0x80000000 0 false 0xFFFFFFFF 30) 31 ∧
    intrLevel P (cpuPending 1 0 false 0xFFFFFFFF 0) = none := by decide

/-- An exception in the slot; PAL mode; an interrupt; an AST; nothing. -/
theorem witness_ArbiterPriority :
    (cpuHolding dtbMiss).slot.kind = .exception ∧
    ((cpuWith true true).slot.kind ≠ .exception ∧ (cpuWith true true).palMode = true) ∧
    (cpuInterrupt.slot.kind ≠ .exception ∧ cpuInterrupt.palMode = false ∧ Deliverable P cpuInterrupt 20 ∧
      intrLevel P cpuInterrupt = some 20) ∧
    (intrLevel P cpuAst = none ∧ (computeEligibility cpuAst.asten cpuAst.astsr cpuAst.mode cpuAst.ipl).eligible = true) ∧
    (intrLevel P (cpuWith false true) = none ∧
      (computeEligibility (cpuWith false true).asten (cpuWith false true).astsr .kernel 31).eligible = false) := by decide

theorem witness_NothingPendingMeansNoEvent :
    State.reset.touchBank.cpu? 0 = some (CpuState.reset P) ∧ hasPendingEvent (CpuState.reset P) = false ∧
    hasPendingEvent cpuInterrupt = true := by decide

/-- A halted CPU, and each kind of event. -/
theorem witness_ConsumeEventEntersPalMode :
    ((bare cpuHalted).touchBank.cpu? 0 = some cpuHalted ∧ cpuHalted.halted = true) ∧
    ((bare cpuAst).touchBank.cpu? 0 = some cpuAst ∧ cpuAst.halted = false ∧ (arbitrate P cpuAst).kind = .ast) ∧
    (arbitrate P cpuInterrupt).kind = .interrupt ∧ (arbitrate P (cpuHolding dtbMiss)).kind = .exception ∧
    (arbitrate P (cpuWith false true)).kind = .none := by decide

theorem witness_ConsumedEventIsNotTakenAgain :
    (arbitrate P cpuInterrupt).kind ≠ .none ∧ (arbitrate P (cpuHolding dtbMiss)).kind ≠ .none ∧
    ({ consume cpuInterrupt (arbitrate P cpuInterrupt) with ipl := 0, irqPending := 0xFFFFFFFF } : CpuState).palMode =
      (consume cpuInterrupt (arbitrate P cpuInterrupt)).palMode := by decide

/-- Each kind of event, and each state of the slot. -/
theorem witness_CollisionPolicy :
    State.reset.touchBank.cpu? 2 = none ∧ (bare (cpuHolding dtbMiss)).touchBank.cpu? 0 = some (cpuHolding dtbMiss) ∧
    PendingEvent.empty.kind = .none ∧
    (interruptEvent P 31).kind = .interrupt ∧ (astEvent P .user).kind = .ast ∧ alignment.kind = .exception ∧
    (cpuWith false false).slot.kind = .none ∧ (cpuHolding dtbMiss).slot.kind ≠ .none ∧
    (cpuHolding machineCheck).slot.cls = .machineCheck ∧ machineCheck.cls = .machineCheck ∧
    (cpuHolding (exceptionEvent P .doubleFault 0 0 ⟨false, false, false⟩)).slot.cls = .doubleFault ∧
    (dtbMiss.cls ≠ .machineCheck ∧ dtbMiss.cls ≠ .doubleFault ∧ alignment.cls ≠ .machineCheck) := by decide

theorem witness_NoFaultIsDropped :
    (cpuWith false false).wf P = true ∧ (cpuHolding dtbMiss).wf P = true ∧ alignment.kind = .exception ∧
    (cpuHolding dtbMiss).slot.kind = .exception ∧ alignment.cls ≠ .machineCheck := by decide

theorem witness_TranslationFaultQuery : (bare (cpuHolding dtbMiss)).touchBank.cpu? 0 = some (cpuHolding dtbMiss) := by decide

theorem witness_TranslationFaultIsReported :
    State.reset.touchBank.cpu? 1 = some (CpuState.reset P) ∧ TranslationResult.tlbMiss ≠ .success := by decide

/-- Codes at the ends of the rows, above bit 2 and below. -/
theorem witness_MmStatusIsDecoded :
    P.mmStat = mmStatDefault ∧ 0 % 8 ≤ 2 ∧ 10 % 8 ≤ 2 ∧ 3 % 8 = 3 ∧ 12 % 8 = 4 ∧ 5 % 8 = 5 ∧ 6 % 8 = 6 ∧ 255 % 8 = 7 := by decide

theorem witness_ArithmeticAndMachineCheckAreRaised :
    State.reset.touchBank.cpu? 1 = some (CpuState.reset P) ∧ (0x8000000000000000#64) ≠ 0 ∧
    (0x8000000000000000#64).toNat < 2 ^ State.reset.params.arithW ∧ (0#64).toNat < 2 ^ 8 := by decide

/-- What a fetch and a store record. -/
def fetchBase : FaultBase := ⟨.none, 0, 0, 4, true, true, 0, 0, 0, true, 0, 0⟩

theorem witness_FaultInfoIsCaptured :
    State.reset.touchBank.cpu? 0 = some (CpuState.reset P) ∧ fetchBase.isExecute = true ∧
    { fetchBase with isExecute := false }.isExecute = false := by decide

theorem witness_PalResultDeltasAreApplied :
    (bare cpuHalted).touchBank.cpu? 0 = some cpuHalted ∧ cpuHalted.halted = true ∧
    State.reset.touchBank.cpu? 0 = some (CpuState.reset P) ∧ (CpuState.reset P).halted = false ∧
    ¬ (39 ≤ 38 ∧ 38 ≤ 46) ∧ ¬ (39 ≤ 47 ∧ 47 ≤ 46) := by decide

/-- An order that is allowed and is not the reference order: three effects, the flush before the TLB invalidation. -/
theorem witness_PipelineActionsComeInAnAllowedOrder :
    State.reset.touchBank.cpu? 0 = some (CpuState.reset P) ∧ (CpuState.reset P).halted = false ∧
    allowedOrder 0x75 [.pipelineFlush, .tlbModified, .memoryBarrier, .notifyHalt, .halt] = true ∧
    (∀ e ∈ [PipelineEffect.tlbModified, .iplChanged, .memoryBarrier, .drainWriteBuffers, .pipelineFlush, .halt, .notifyHalt,
        .contextSwitch],
      e ∈ [PipelineEffect.pipelineFlush, .tlbModified, .memoryBarrier, .notifyHalt, .halt] ↔
        (0x75#32).getLsbD e.bit = true) := by decide

/-- Two results that differ only in values without a flag. -/
theorem witness_UnflaggedValuesAreNotRead :
    let r : PalResult := PalResult.empty
    let r' : PalResult := { PalResult.empty with newPS := 0x18, newIPL := 3, newASN := 1, haltCode := 5 }
    r.psModified = r'.psModified ∧ (r.psModified = true → r.newPS = r'.newPS) ∧ r.iplModified = r'.iplModified ∧
    (r.iplModified = true → r.newIPL = r'.newIPL) ∧ r.asnModified = r'.asnModified ∧
    (r.asnModified = true → r.newASN = r'.newASN) ∧ r.doesReturn = r'.doesReturn ∧ r.sideEffects = r'.sideEffects ∧
    (r.sideEffects.getLsbD 5 = true → r.haltCode = r'.haltCode) ∧
    (nextOf (applyPalResult 0 r [] State.reset)).isSome = true ∧
    (nextOf (applyPalResult 0 r' [] State.reset)).isSome = true := by decide

/-- To another CPU, and to itself. -/
theorem witness_SendIpiPublishesThenRequests :
    State.reset.touchBank.cpu? 0 = some (CpuState.reset P) ∧ State.reset.touchBank.cpu? 1 = some (CpuState.reset P) ∧
    (nextOf (sendIPI 0 1 0x42 State.reset)).isSome = true ∧ (nextOf (sendIPI 1 1 0x42 State.reset)).isSome = true ∧
    (0 : Nat) ≠ 1 := by decide

/-- With a request to take, and without one. -/
theorem witness_AckIpiTakesTheRequest :
    (bare { cpuWith true true with ipiRequest := true, ipiData := 0x42 }).touchBank.cpu? 0 =
      some { cpuWith true true with ipiRequest := true, ipiData := 0x42 } ∧
    State.reset.touchBank.cpu? 0 = some (CpuState.reset P) := by decide

/-- A reader that has observed the request, and one that has not. -/
theorem witness_RacingIpiReadIsFree :
    (bare { cpuWith true true with ipiSeen := [1] }).touchBank.cpu? 0 = some { cpuWith true true with ipiSeen := [1] } ∧
    1 ∈ ({ cpuWith true true with ipiSeen := [1] } : CpuState).ipiSeen ∧
    0 ∉ ({ cpuWith true true with ipiSeen := [1] } : CpuState).ipiSeen ∧
    Op.eventPendingState 0 ∈ [Op.hasPendingEvent 0, .eventPendingState 0, .ackIPI 0] ∧
    (cpuWith true true).halted = false := by decide

theorem witness_FieldsAreMasked :
    State.reset.touchBank.cpu? 1 = some (CpuState.reset P) ∧
    Field.palBase ∈ [Field.ipl, .cm, .sirr, .pctx, .ier, .palMode, .palBase] := by decide

theorem witness_AtomicUpdatesKeepOtherBits : State.reset.touchBank.cpu? 1 = some (CpuState.reset P) := by decide

/-- Another CPU, and another kind of agent, on an owner-only and on an atomic field. -/
theorem witness_OwnershipIsEnforced :
    Agent.cpu 1 ≠ .cpu 0 ∧ Agent.platform ≠ .cpu 0 ∧ Field.ipl ∉ [Field.irqPending, .ipiRequest, .ipiData, .astState] ∧
    State.reset.touchBank.cpu? 0 = some (CpuState.reset P) ∧
    Field.irqPending ∈ [Field.irqPending, .ipiRequest, .ipiData, .astState] := by decide

theorem witness_ResetOfOneCpu : (bare cpuHalted).touchBank.cpu? 0 = some cpuHalted := by decide

/-- Both sides of the seal; a bank with a CPU; the last CPU of the bank the first access builds, and the first one outside it. -/
theorem witness_ResetReleaseSealsAndResets :
    State.reset.isSealed = true ∧ ({ State.reset with isSealed := false } : State).isSealed = false ∧
    State.reset.touchBank.cpu? 1 = some (CpuState.reset P) ∧ 0 ≠ 1 ∧
    ({ State.reset with bank := none } : State).bank = none ∧ 3 < P.defaultCpuCount ∧ P.defaultCpuCount ≤ 4 := by decide

theorem witness_EveryStepKeepsTheInvariant :
    (State.reset.withFetchWord 32 0x44220403).wf = true ∧
    (nextOf (step (State.reset.withFetchWord 32 0x44220403))).isSome = true := by decide

/-- A halted CPU keeps its halt under another's operation, and loses it to its reset. -/
theorem witness_OnlyResetLeavesHalt :
    (bare cpuHalted).cpu? 0 = some cpuHalted ∧ cpuHalted.halted = true ∧
    (nextOf (step { bare cpuHalted with requests := [⟨.cpu 1, .sendIPI 1 0 7⟩] })).isSome = true ∧
    (cpuOf (step { bare cpuHalted with requests := [⟨.platform, .resetCpu 0⟩] }) 0).map CpuState.halted = some false := by decide

theorem witness_OtherCpusReachOnlyAtomicFields :
    ({ bare (cpuWith true true) with requests := [⟨.cpu 1, .sendIPI 1 0 7⟩] } : State).requests = [⟨.cpu 1, .sendIPI 1 0 7⟩] ∧
    1 ≠ 0 ∧ (bare (cpuWith true true)).cpu? 0 = some (cpuWith true true) ∧
    (nextOf (step { bare (cpuWith true true) with requests := [⟨.cpu 1, .sendIPI 1 0 7⟩] })).isSome = true := by decide

/-- The mode changes by a PS delta and a write of CM; PAL mode is entered by consuming an event, and left by a return. -/
theorem witness_ModeChangesOnlyByItsRules :
    (cpuOf (step { bare (cpuWith true true) with requests := [⟨.cpu 0, .writeF 0 .cm 3⟩] }) 0).map CpuState.cm = some 3#2 ∧
    (cpuOf (step { bare (cpuWith true true) with
      requests := [⟨.cpu 0, .applyPalResult 0 (PalResult.build P [.newPS 0x8, .doesReturn]) []⟩] }) 0).map
        (fun y => (y.cm, y.palMode)) = some (1#2, false) ∧
    (cpuOf (step { bare cpuInterrupt with requests := [⟨.cpu 0, .consumeEvent 0⟩] }) 0).map CpuState.palMode = some true := by
  decide

/-- Each kind of source, set before the step and clear after it. -/
theorem witness_SourcesStayPendingUntilCleared :
    (cpuOf (step { bare cpuInterrupt with requests := [⟨.interruptSource, .irqClear 0 20⟩] }) 0).map CpuState.irqPending =
      some 0#32 ∧
    (cpuOf (step { bare (cpuPending 0 4 false 0 0) with requests := [⟨.cpu 0, .writeF 0 .sirr 0⟩] }) 0).map CpuState.sirr =
      some 0#16 ∧
    (cpuOf (step { bare cpuAst with requests := [⟨.cpu 0, .writeF 0 .pctx 0x100⟩] }) 0).map CpuState.astsr = some 0#4 ∧
    (cpuOf (step { bare (cpuPending 0 0 true 0 0) with requests := [⟨.cpu 0, .ackIPI 0⟩] }) 0).map CpuState.ipiRequest =
      some false := by decide


end Sys2Proof.Tests
end

section
/-! PROOFS. The scope of the block: what the agents of other CPUs can reach (O58). -/

namespace Sys2Proof.Proofs

open Sys2Proof.Machine Sys2Proof.Laws

/-- `y` is `x` but for the atomic fields (R47) and the model's own record of acquires (log 12). -/
def DiffersInAtomicFieldsOnly (x y : CpuState) : Prop :=
  y = { x with irqPending := y.irqPending, ipiRequest := y.ipiRequest, ipiData := y.ipiData, astState := y.astState,
               ipiSeen := y.ipiSeen }

/-- Building, shutting down and de-registering are the configuration agent's (R4, R503, R504). -/
theorem not_unmakes_of_permitted_cpu {a c : Nat} {op : Op} (hp : permitted (.cpu a) op = true) : ¬ Unmakes c op := by
  rintro (rfl | rfl | rfl) <;> simp [permitted] at hp

/-- What another CPU's agent may ask for writes the atomic fields of CPU c alone: the lines of its IPI operations write the
`busy` of the sender, which is not c, and what else it may do to c is an atomic access (R47, R76, R450). -/
theorem cpuStep_of_other_cpu {p : Params} {a c : Nat} {op : Op} {x y : CpuState} (hac : a ≠ c)
    (hp : permitted (.cpu a) op = true) (hs : CpuStep p c op x y) : DiffersInAtomicFieldsOnly x y := by
  cases hs with
  | same | observe | astUpdate => rfl
  | sendData src _ _ _ | sendRequest src _ _ | sendInterrupt src _ _ =>
    have hsrc : c ≠ src := by
      obtain rfl : a = src := by simpa [permitted] using hp
      exact hac.symm
    simp [DiffersInAtomicFieldsOnly, hsrc]
  | decodeTrap | translation | arith | machineCheck | post | consume | apply | ackTake | ackClear | ackRead | write
  | irqSet | irqClear =>
    have hown : a = c := by simpa [permitted] using hp
    exact absurd hown hac
  | resetOne | resetAll => simp [permitted] at hp

/-- Settles O58: of everything a step can do to a CPU, what another CPU is permitted to ask for reaches only its atomic
fields. -/
theorem otherCpusReachOnlyAtomicFields : Obligations.OtherCpusReachOnlyAtomicFields := by
  unfold Obligations.OtherCpusReachOnlyAtomicFields
  intro s t a c op rest x hr hac hx h
  obtain ⟨hnil, -⟩ | ⟨r, rest', hr', hadm, hperf⟩ := step_next h
  · rw [hr] at hnil; cases hnil
  · obtain ⟨rfl, rfl⟩ : (⟨.cpu a, op⟩ : Request) = r ∧ rest = rest' := List.cons.inj (hr.symm.trans hr')
    have hp := permitted_of_turnedAway hadm
    obtain hun | ⟨y, hy, hstep⟩ := perform_cpu (s := s.popRequest rest) hx hperf
    · exact absurd hun (not_unmakes_of_permitted_cpu hp)
    · exact ⟨y, hy, cpuStep_of_other_cpu hac hp hstep⟩

end Sys2Proof.Proofs
end

section
/-! PROOFS. The whole-machine rules: the invariant (O55, O56), the sealed tables (O28), the halt state (O57), and the mode and
PAL mode (O59). Each is a fact about `CpuStep` or the tables, lifted to a step. -/

namespace Sys2Proof.Proofs

open Sys2Proof.Machine Sys2Proof.Laws

/-- Where a request stands first, a step is the performance of it. -/
theorem perform_of_step {s t : State} {r : Request} {rest : List Request} (hr : s.requests = r :: rest)
    (h : step s = .next t) : perform r.agent r.op (s.popRequest rest) = .next t := by
  obtain ⟨hnil, -⟩ | ⟨r', rest', hr', -, hperf⟩ := step_next h
  · rw [hr] at hnil; cases hnil
  · obtain ⟨rfl, rfl⟩ : r = r' ∧ rest = rest' := List.cons.inj (hr.symm.trans hr')
    exact hperf

/-! ### The invariant -/

/-- The block's invariant, CPU by CPU. -/
theorem state_wf {s : State} :
    s.wf = true ↔ registryWf s.params s.registry = true ∧ ∀ c x, s.cpu? c = some x → x.wf s.params = true := by
  rw [State.wf, Bool.and_eq_true, List.all_eq_true]
  refine and_congr_right fun _ => ⟨fun h c x hx => h x (mem_cpus_of_cpu? hx), fun h x hx => ?_⟩
  obtain ⟨c, hc⟩ := cpu?_of_mem_cpus hx
  exact h c x hc

/-- Every operation keeps the invariant: the registry by `registerGrain_wf`, each CPU by `cpuStep_wf` from what it was, be
that a CPU of the bank the first access builds (R53) or one `initBank` built. -/
theorem perform_keeps_wf {a : Agent} {op : Op} {s t : State} (hs : s.wf = true) (h : perform a op s = .next t) :
    t.wf = true := by
  have hcpus : s.cpus.all (CpuState.wf s.params) = true := (Bool.and_eq_true_iff.mp hs).2
  obtain ⟨hreg, -⟩ := state_wf.mp hs
  obtain ⟨hp, hreg', -⟩ := perform_tables h
  refine state_wf.mpr ⟨?_, fun c y hy => ?_⟩
  · rw [hp]
    obtain hr | ⟨-, _, _, _, _, -, hr⟩ := hreg' <;> rw [hr]
    · exact hreg
    · exact registerGrain_wf hreg
  · rw [hp]
    obtain ⟨-, rfl⟩ | ⟨x, hx, hstep⟩ := perform_cpu_back h hy
    · exact reset_wf _
    · exact cpuStep_wf (touchBank_wf hcpus hx) hstep

/-- Settles O56: an idle step touches neither registry nor bank, and an operation keeps the invariant. -/
theorem everyStepKeepsTheInvariant : Obligations.EveryStepKeepsTheInvariant := by
  unfold Obligations.EveryStepKeepsTheInvariant
  intro s t hs h
  obtain ⟨-, rfl⟩ | ⟨r, rest, -, -, hperf⟩ := step_next h
  · exact hs
  · exact perform_keeps_wf (s := s.popRequest rest) hs hperf

/-- Settles O55: the registry is empty and every CPU is as `reset(c)` leaves it. -/
theorem resetStateIsWellFormed : Obligations.ResetStateIsWellFormed := by
  unfold Obligations.ResetStateIsWellFormed
  refine ⟨state_wf.mpr ⟨rfl, fun c x hx => ?_⟩, by decide⟩
  obtain rfl : x = CpuState.reset Params.default :=
    List.eq_of_mem_replicate (n := Params.default.numCpus) (mem_cpus_of_cpu? hx)
  exact reset_wf _

/-! ### The tables -/

/-- Settles O28: only `register` and `setActivePlatform` write a table, and both are refused after the seal. -/
theorem sealedTablesAreReadOnly : Obligations.SealedTablesAreReadOnly := by
  unfold Obligations.SealedTablesAreReadOnly
  intro s t hsealed h
  obtain ⟨-, rfl⟩ | ⟨r, rest, -, -, hperf⟩ := step_next h
  · exact ⟨rfl, rfl, rfl⟩
  · obtain ⟨hp, hreg, hplat⟩ := perform_tables hperf
    rw [popRequest_isSealed, hsealed] at hreg hplat
    exact ⟨hreg.resolve_right (by simp), hplat.resolve_right (by simp), hp⟩

/-! ### What `writeF` leaves in the fields of these rules -/

section
variable {p : Params} {x y : CpuState} {f : Field} {v : Quad} (h : writeField p x f v = some y)
include h

/-- No accessor writes the halt state (R48, R76). -/
theorem writeField_keeps_halt : y.halted = x.halted ∧ y.haltCode = x.haltCode := by
  cases f <;> cases h <;> exact ⟨rfl, rfl⟩

/-- Only the write of CM changes CM (R34, R46). -/
theorem writeField_cm (hne : y.cm ≠ x.cm) : f = .cm := by
  cases f <;> cases h
  case cm => rfl
  all_goals exact absurd rfl hne

/-- Only the write of `palMode` changes PAL mode (R40, R438). -/
theorem writeField_palMode (hne : y.palMode ≠ x.palMode) : f = .palMode := by
  cases f <;> cases h
  case palMode => rfl
  all_goals exact absurd rfl hne

end

/-! ### The halt state -/

/-- Of everything an operation can do to a halted CPU, only a reset touches its halt state: consuming and applying have no
step on it (R353, R460). -/
theorem cpuStep_of_halted {p : Params} {c : Nat} {op : Op} {x y : CpuState} (hh : x.halted = true)
    (hs : CpuStep p c op x y) :
    (y.halted = x.halted ∧ y.haltCode = x.haltCode) ∨ op = .resetCpu c ∨ op = .releaseReset := by
  cases hs with
  | consume _ h | apply _ _ _ h => rw [hh] at h; cases h
  | write _ _ _ _ h => exact .inl (writeField_keeps_halt h)
  | resetOne => exact .inr (.inl rfl)
  | resetAll => exact .inr (.inr rfl)
  | _ => left; simp

/-- Settles O57: `cpuStep_of_halted` for the CPUs that stay, and the operations that unmake one for the rest. -/
theorem onlyResetLeavesHalt : Obligations.OnlyResetLeavesHalt := by
  unfold Obligations.OnlyResetLeavesHalt
  intro s t c x hx hh h
  obtain ⟨-, rfl⟩ | ⟨r, rest, hr, -, hperf⟩ := step_next h
  · exact .inl ⟨x, hx, hh, rfl⟩
  · obtain hun | ⟨y, hy, hstep⟩ := perform_cpu (s := s.popRequest rest) hx hperf
    · exact .inr ⟨r, rest, hr, .inr (.inr hun)⟩
    · obtain ⟨hh', hcode⟩ | hreset := cpuStep_of_halted hh hstep
      · exact .inl ⟨y, hy, hh'.trans hh, hcode⟩
      · exact .inr ⟨r, rest, hr, by tauto⟩

/-! ### The mode and PAL mode -/

/-- What of the operations on a bank's CPU changes its mode (R40, R354, R500). -/
theorem cpuStep_cm {p : Params} {c : Nat} {op : Op} {x y : CpuState} (hs : CpuStep p c op x y) (hne : y.cm ≠ x.cm) :
    (∃ pr order, op = .applyPalResult c pr order ∧ pr.psModified = true) ∨ (∃ v, op = .writeF c .cm v) ∨
      op = .resetCpu c ∨ op = .releaseReset := by
  cases hs with
  | apply r o _ _ => exact .inl ⟨r, o, rfl, by by_contra hps; simp [hps] at hne⟩
  | write f v _ _ h => exact .inr (.inl ⟨v, by rw [writeField_cm h hne]⟩)
  | resetOne | resetAll => simp
  | _ => simp at hne

/-- What of the operations on a bank's CPU enters PAL mode (R433, R438, R500). -/
theorem cpuStep_enters_palMode {p : Params} {c : Nat} {op : Op} {x y : CpuState} (hs : CpuStep p c op x y)
    (hx : x.palMode = false) (hy : y.palMode = true) :
    op = .consumeEvent c ∨ (∃ v, op = .writeF c .palMode v) ∨ op = .resetCpu c ∨ op = .releaseReset := by
  cases hs with
  | consume => exact .inl rfl
  | write f v _ _ h => exact .inr (.inl ⟨v, by rw [writeField_palMode h (by simp [hx, hy])]⟩)
  | resetOne | resetAll => simp
  | _ => simp [hx] at hy

/-- Consuming an event never leaves PAL mode (R433, R434). -/
theorem consume_stays_in_palMode {x : CpuState} (e : PendingEvent) (hx : x.palMode = true) : (consume x e).palMode = true := by
  unfold consume
  split
  · exact hx
  all_goals rfl

/-- What of the operations on a bank's CPU leaves PAL mode: no reset, since a reset enters it (R436, R445, R500). -/
theorem cpuStep_leaves_palMode {p : Params} {c : Nat} {op : Op} {x y : CpuState} (hs : CpuStep p c op x y)
    (hx : x.palMode = true) (hy : y.palMode = false) :
    (∃ pr order, op = .applyPalResult c pr order ∧ pr.doesReturn = true) ∨ ∃ v, op = .writeF c .palMode v := by
  cases hs with
  | apply r o _ _ => exact .inl ⟨r, o, rfl, by simpa [hx] using hy⟩
  | write f v _ _ h => exact .inr ⟨v, by rw [writeField_palMode h (by simp [hx, hy])]⟩
  | consume => rw [consume_stays_in_palMode _ (by simpa using hx)] at hy; cases hy
  | _ => simp [hx] at hy

/-- Settles O59: a CPU after a step is one `initBank` built, which is a reset, or comes from the one before by a `CpuStep`,
of which the three lemmas above say what changes CM and `palMode`. -/
theorem modeChangesOnlyByItsRules : Obligations.ModeChangesOnlyByItsRules := by
  unfold Obligations.ModeChangesOnlyByItsRules
  intro s t r rest c x y hr hx h hy
  obtain ⟨hop, rfl⟩ | ⟨x', hx', hstep⟩ := perform_cpu_back (perform_of_step hr h) hy
  · exact ⟨fun _ => by simp [hop], fun _ _ => by simp [hop], fun _ hpal => by simp at hpal⟩
  · obtain rfl : x' = x := by
      rw [touchBank_of_cpu? (s := s.popRequest rest) hx, cpu?_popRequest, hx] at hx'
      exact (Option.some.inj hx').symm
    refine ⟨fun hne => ?_, fun hout hin => ?_, cpuStep_leaves_palMode hstep⟩
    · obtain hps | hw | hreset := cpuStep_cm hstep hne
      · exact .inl hps
      · exact .inr (.inl hw)
      · exact .inr (.inr (by tauto))
    · obtain hcons | hw | hreset := cpuStep_enters_palMode hstep hout hin
      · exact .inl hcons
      · exact .inr (.inl hw)
      · exact .inr (.inr (by tauto))

end Sys2Proof.Proofs
end

section
/-! PROOFS. The register-field accessors: masks (O50), the atomic updates (O51) and ownership (O52). -/

namespace Sys2Proof.Proofs

open Sys2Proof.Machine Sys2Proof.Laws

/-! ### Getters and setters -/

/-- A masked value that fits a field of k bits comes back whole from it (R46). -/
theorem setWidth_setWidth_of_masked {k : Nat} (v m : Quad) (hm : m.toNat < 2 ^ k) :
    ((v &&& m).setWidth k).setWidth 64 = v &&& m := by
  have hlt : (v &&& m).toNat < 2 ^ k := by
    rw [BitVec.toNat_and]; exact Nat.lt_of_le_of_lt Nat.and_le_right hm
  apply BitVec.eq_of_toNat_eq
  rw [BitVec.toNat_setWidth, BitVec.toNat_setWidth, Nat.mod_eq_of_lt hlt, Nat.mod_eq_of_lt (v &&& m).isLt]

theorem bitValue_getLsbD_zero (v : Quad) : bitValue ((v &&& 1#64).getLsbD 0) = v &&& 1#64 := by
  apply BitVec.eq_of_getLsbD_eq; intro k hk
  by_cases h0 : k = 0
  · subst h0; simp [bitValue]
  · simp [bitValue, BitVec.getLsbD_one, h0]

theorem bitValue_eq (b : Bool) : bitValue b = if b then 1 else 0 := by cases b <;> rfl

/-- The fields `writeF` writes (R46, R76; log 17). -/
abbrev IsWritten (f : Field) : Prop := f ∈ [Field.ipl, .cm, .sirr, .pctx, .ier, .palMode, .palBase]

/-- A field that is written holds the masked value, and every other field but SIRR's view SISR, and the slot, what it held
(R36, R46). -/
theorem writeField_written (p : Params) (x : CpuState) {f : Field} (v : Quad) (hf : IsWritten f) :
    ∃ y, writeField p x f v = some y ∧ fieldBits y f = v &&& fieldMask p f ∧ y.slot = x.slot ∧
      ∀ g, g ≠ f → ¬ (f = .sirr ∧ g = .sisr) → fieldBits y g = fieldBits x g := by
  cases f <;> simp only [List.mem_cons, List.not_mem_nil, reduceCtorEq, or_false] at hf <;>
    refine ⟨_, rfl, ?_, rfl, fun g hg hs => ?_⟩
  case ipl.refine_1 => exact setWidth_setWidth_of_masked v 0x1F#64 (by decide)
  case cm.refine_1 => exact setWidth_setWidth_of_masked v 0x3#64 (by decide)
  case sirr.refine_1 => exact setWidth_setWidth_of_masked v 0xFFFE#64 (by decide)
  case ier.refine_1 => exact setWidth_setWidth_of_masked v 0xFFFFFFFF#64 (by decide)
  case pctx.refine_1 | palBase.refine_1 => rfl
  case palMode.refine_1 => exact bitValue_getLsbD_zero v
  all_goals
    cases g
    all_goals simp [fieldBits] at hg hs ⊢

theorem writeF_next {s : State} {c : Nat} {x y : CpuState} {f : Field} {v : Quad} (hx : s.touchBank.cpu? c = some x)
    (h : writeField s.params x f v = some y) : writeF c f v s = .next (s.touchBank.setCpu c y) := by
  simp only [writeF, withCpu_some hx, touchBank_params, h]

/-- SISR is the view of SIRR (R36). -/
theorem fieldBits_sisr (x : CpuState) : fieldBits x .sisr = fieldBits x .sirr := rfl

/-- The model's record of acquires is no field (log 12). -/
@[simp] theorem fieldBits_with_ipiSeen (x : CpuState) (seen : List Nat) (f : Field) :
    fieldBits { x with ipiSeen := seen } f = fieldBits x f := by cases f <;> rfl

/-- A read of a field other than IPI_DATA, whose reads may race, hands back its masked bits, and writes nothing but the record
of the acquire a read of IPI_REQUEST is (R46, R76, R96; log 12). -/
theorem readF_next {s : State} {c : Nat} {x : CpuState} (reader : Nat) {f : Field} (hx : s.touchBank.cpu? c = some x)
    (hf : f ≠ .ipiData) : ∃ seen, readF reader c f s =
      .next ((s.touchBank.setCpu c { x with ipiSeen := seen }).emit [.value (readField s.params x f)]) := by
  have hself : s.touchBank.setCpu c { x with ipiSeen := x.ipiSeen } = s.touchBank := setCpu_self hx
  rw [readF, withCpu_some hx]
  cases f
  case ipiData => exact absurd rfl hf
  case ipiRequest => exact ⟨_, by rw [touchBank_params]; rfl⟩
  all_goals exact ⟨x.ipiSeen, by rw [hself, touchBank_params]⟩

/-- Settles O50: `readF_next` for the getters, `writeField_written` for the setters, and the table of masks as it stands. -/
theorem fieldsAreMasked : Obligations.FieldsAreMasked := by
  unfold Obligations.FieldsAreMasked
  intro s c x f v hx p
  refine ⟨fun e he => ?_, fun hf => ?_, ?_, by simp [fieldMask, pctxMask]⟩
  · obtain ⟨hbits, hf⟩ : fieldBits x e.1 = e.2 ∧ e.1 ≠ .ipiData := by
      simp only [List.mem_cons, List.not_mem_nil, or_false] at he
      rcases he with rfl | rfl | rfl | rfl | rfl | rfl | rfl | rfl | rfl | rfl | rfl | rfl | rfl <;>
        simp [fieldBits, bitValue_eq]
    obtain ⟨seen, hread⟩ := readF_next c hx hf
    refine ⟨_, hread, by rw [readField, hbits]; rfl, fun g => ⟨hbits, ?_⟩⟩
    rw [cpu?_emit, cpu?_setCpu_same _ hx]
    simp
  · obtain ⟨y, hw, hset, hslot, hother⟩ := writeField_written s.params x v hf
    exact ⟨y, writeF_next hx hw, hset, fieldBits_sisr y, hslot, hother⟩
  · rw [writeF_next (y := x) hx rfl, setCpu_self hx]

/-! ### The atomic updates -/

theorem getLsbD_bit {w k n : Nat} (hk : k < w) : (1#w <<< k).getLsbD n = decide (n = k) := by
  rw [← BitVec.twoPow_eq, BitVec.getLsbD_twoPow]
  simp [hk, eq_comm]

/-- Settles O51: each update is one bitwise expression over the old value, read bit by bit. -/
theorem atomicUpdatesKeepOtherBits : Obligations.AtomicUpdatesKeepOtherBits := by
  unfold Obligations.AtomicUpdatesKeepOtherBits
  intro s c x n a b hx
  have hn : n.toNat < 32 := n.isLt
  refine ⟨⟨fetchOr x.irqPending (1#32 <<< n.toNat), ?_, fun m _ => ?_⟩,
    ⟨fetchAnd x.irqPending (~~~(1#32 <<< n.toNat)), ?_, fun m hm => ?_⟩,
    ⟨(x.astState ||| a) &&& ~~~b, ?_, fun m hm => ?_⟩⟩
  · rw [irqSet, withCpu_some hx]
  · rw [fetchOr, getLsbD_or_bit hn]
  · rw [irqClear, withCpu_some hx]
  · rw [fetchAnd, BitVec.getLsbD_and, BitVec.getLsbD_not, getLsbD_bit hn]
    simp [hm, Bool.and_comm]
  · rw [astUpdate, withCpu_some hx]
  · simp [hm]

/-! ### Ownership -/

/-- A request its agent may not make is turned away before anything else is looked at (R47; log 14). -/
theorem serve_of_not_permitted {a : Agent} {op : Op} (s : State) (h : permitted a op = false) :
    serve ⟨a, op⟩ s = .refused .notPermitted := by simp [serve, turnedAway, h]

/-- No accessor writes an atomic field as a plain field (R76; log 17). -/
theorem writeField_atomic (p : Params) (x : CpuState) {f : Field} (v : Quad) (hf : isAtomicField f = true) :
    writeField p x f v = none := by
  cases f <;> simp [isAtomicField] at hf <;> rfl

theorem isAtomicField_iff {f : Field} :
    isAtomicField f = true ↔ f ∈ [Field.irqPending, .ipiRequest, .ipiData, .astState] := by cases f <;> decide

/-- Settles O52: `permitted` lets no other agent write, nor read what is not atomic, and `writeField` has no atomic field. -/
theorem ownershipIsEnforced : Obligations.OwnershipIsEnforced := by
  unfold Obligations.OwnershipIsEnforced
  intro s a c f v
  refine ⟨fun ha => ?_, fun ha hf => ?_, fun x hx hf => ?_⟩
  · exact serve_of_not_permitted s (by simp [permitted, ha])
  · have hna : isAtomicField f = false := by rw [← Bool.not_eq_true, isAtomicField_iff]; exact hf
    exact serve_of_not_permitted s (by simp [permitted, ha, hna])
  · simp only [writeF, withCpu_some hx, writeField_atomic _ x v (isAtomicField_iff.mpr hf)]

end Sys2Proof.Proofs
end

section
/-! PROOFS. Where no instruction decodes (O20), what is pending (O32), and how events collide in the slot (O35). -/

namespace Sys2Proof.Proofs

open Sys2Proof.Machine Sys2Proof.Laws

/-! ### Where the decode stage stops -/

/-- Settles O20: every meaning is the decode stage, whose checks are made in this order. -/
theorem decodeStopsByName : Obligations.DecodeStopsByName := by
  unfold Obligations.DecodeStopsByName
  intro i s
  rw [exec_eq_decodeStage]
  refine ⟨fun hout => by rw [decodeStage, withCpu_none hout], fun x hx => ?_⟩
  rw [decodeStage, withCpu_some hx, touchBank_isSealed, touchBank_params]
  refine ⟨fun hh => ?_, fun hh hs => ?_, fun hh hs he => ?_⟩
  · rw [if_pos hh]
  · simp [hh, hs]
  · simp [hh, hs, he]

/-! ### What is pending -/

/-- The has-pending-event flag is 0 exactly when each of its five sources is silent (R44). -/
theorem hasPendingEvent_eq_false {x : CpuState} :
    hasPendingEvent x = false ↔
      x.slot.kind = .none ∧ x.irqPending = 0 ∧ x.sirr = 0 ∧ x.ipiRequest = false ∧ x.astsr &&& x.asten = 0 := by
  simp [hasPendingEvent, and_assoc]

/-- With no interrupt source pending no level is deliverable (R420). -/
theorem intrLevel_of_silent {p : Params} {x : CpuState} (hirq : x.irqPending = 0) (hsirr : x.sirr = 0)
    (hipi : x.ipiRequest = false) : intrLevel p x = none := by
  have hlevels : pendingLevels p x = 0 := by simp [pendingLevels, hirq, hsirr, hipi]
  exact highestFrom_none.mpr fun n _ _ => by simp [deliverable, hlevels]

/-- With no enabled AST pending none is eligible (R410, R412). -/
theorem astElig_of_silent {x : CpuState} (hast : x.astsr &&& x.asten = 0) : (astElig x).eligible = false := by
  simp [astElig, computeEligibility, hast, astCandidate, notEligible]

/-- With nothing pending the arbiter picks the NONE event (R44, R430). -/
theorem arbitrate_of_nothing_pending {p : Params} {x : CpuState} (h : hasPendingEvent x = false) :
    arbitrate p x = PendingEvent.empty := by
  obtain ⟨hslot, hirq, hsirr, hipi, hast⟩ := hasPendingEvent_eq_false.mp h
  simp [arbitrate, hslot, intrLevel_of_silent hirq hsirr hipi, astElig_of_silent hast]

/-- Settles O32: both queries are `queryPending`, which records its acquire and writes nothing else. -/
theorem nothingPendingMeansNoEvent : Obligations.NothingPendingMeansNoEvent := by
  unfold Obligations.NothingPendingMeansNoEvent
  intro a s c x hx
  have hquery := queryPending_next hx
  exact ⟨⟨_, hquery fun p x => .event (arbitrate p x)⟩, ⟨_, hquery fun _ x => .flag (hasPendingEvent x)⟩,
    hasPendingEvent_eq_false, arbitrate_of_nothing_pending⟩

/-! ### Posting an event -/

theorem setPendingEvent_next {s : State} {c : Nat} {x : CpuState} {e : PendingEvent} (hx : s.touchBank.cpu? c = some x)
    (he : e.kind ≠ .none) : setPendingEvent c e s = .next (s.touchBank.setCpu c (postEvent s.params x e)) := by
  rw [setPendingEvent, if_neg he, withCpu_some hx, touchBank_params]

section
variable {p : Params} {x : CpuState} {e : PendingEvent}

theorem postEvent_interrupt (he : e.kind = .interrupt) :
    postEvent p x e = { x with irqPending := x.irqPending ||| 1#32 <<< (e.info.extractLsb' 0 5).toNat } := by
  simp only [postEvent, he, fetchOr]

theorem postEvent_ast (he : e.kind = .ast) :
    postEvent p x e = { x with pctx := x.pctx ||| 1#64 <<< (9 + (e.info.extractLsb' 0 2).toNat) } := by
  simp only [postEvent, he, pctxWithAst]

/-- The collision policy of an exception (R440): the slot is filled, kept, replaced by a machine check, or escalated. -/
theorem postEvent_exception (he : e.kind = .exception) : postEvent p x e =
    if x.slot.kind = .none then { x with slot := e.cut p }
    else if x.slot.cls = .machineCheck then x
    else if e.cls = .machineCheck then { x with slot := e.cut p }
    else if x.slot.cls = .doubleFault then x
    else { x with slot := { x.slot with cls := .doubleFault, vector := vectorOf p .doubleFault } } := by
  simp only [postEvent, he]

end

/-- Settles O35: `postEvent` kind by kind, an exception by the branches of the collision policy. -/
theorem collisionPolicy : Obligations.CollisionPolicy := by
  unfold Obligations.CollisionPolicy
  refine ⟨fun s c e hout he => by rw [setPendingEvent, if_neg he, withCpu_none hout], ?_⟩
  intro s c x e hx e'
  refine ⟨fun he => ?_, fun he => ?_, fun he => ?_, fun he => ?_⟩
  · rw [setPendingEvent, if_pos he]
  · rw [setPendingEvent_next hx (by simp [he]), postEvent_interrupt he]
  · rw [setPendingEvent_next hx (by simp [he]), postEvent_ast he]
  · have hself : s.touchBank.setCpu c x = s.touchBank := setCpu_self hx
    have hcut : e.cut s.params = e' := rfl
    rw [setPendingEvent_next hx (by simp [he]), postEvent_exception he, hcut]
    refine ⟨fun hfree => by rw [if_pos hfree], fun hheld => ?_⟩
    rw [if_neg hheld]
    refine ⟨fun hmc => ?_, fun hmc hnew => ?_, fun hdf hnew => ?_, fun hmc hdf hnew => ?_⟩
    · rw [if_pos hmc, hself]
    · rw [if_neg hmc, if_pos hnew]
    · rw [if_neg (by simp [hdf]), if_neg hnew, if_pos hdf, hself]
    · rw [if_neg hmc, if_neg hnew, if_neg hdf]

end Sys2Proof.Proofs
end

section
/-! PROOFS. The boot steps, and how the bank is built and unmade (O54). -/

namespace Sys2Proof.Proofs

open Sys2Proof.Machine Sys2Proof.Laws

/-- A bank that is built is not built again by an access, so its CPUs are those of its list (R53). -/
theorem cpu?_touchBank_of_bank {s : State} {cpus : List (Option CpuState)} (h : s.bank = some cpus) (c : Nat) :
    s.touchBank.cpu? c = cpus[c]?.join := by
  rw [touchBank_of_bank h, State.cpu?, h]

/-- The CPUs of a bank of n CPUs as `reset(c)` leaves them (R53, R500). -/
theorem join_getElem?_replicate_reset (p : Params) (n c : Nat) :
    (List.replicate n (some (CpuState.reset p)))[c]?.join = if c < n then some (CpuState.reset p) else none := by
  rw [List.getElem?_replicate]; split <;> rfl

/-- An unbuilt bank is built by the first access with DEFAULT_CPU_COUNT CPUs (R53; log 15). -/
theorem cpu?_touchBank_of_none {s : State} (h : s.bank = none) (c : Nat) :
    s.touchBank.cpu? c = if c < s.params.defaultCpuCount then some (CpuState.reset s.params) else none := by
  rw [State.cpu?, touchBank_of_none h]
  exact join_getElem?_replicate_reset ..

/-- Reset release resets every CPU there is and makes none (R501; log 16, log 32). -/
theorem releaseReset_next (s : State) :
    ∃ t, releaseReset s = .next t ∧ t.isSealed = true ∧ t.registry = s.registry ∧ t.activePlatform = s.activePlatform ∧
      (s.bank = none → t.bank = none) ∧ ∀ c, t.cpu? c = (s.cpu? c).map (fun _ => CpuState.reset s.params) := by
  refine ⟨_, rfl, rfl, rfl, rfl, fun h => by simp [h], fun c => ?_⟩
  cases hb : s.bank with
  | none => simp [State.cpu?, hb]
  | some cpus => rcases hc : cpus[c]? with _ | _ | _ <;> simp [State.cpu?, hb, hc]

/-- The configuration steps that build the bank and choose the platform are refused once sealed (R4d, R51; log 8). -/
theorem whileUnsealed_sealed {s : State} (hs : s.isSealed = true) (f : State → Result) :
    whileUnsealed s f = .refused .registrySealed := by simp [whileUnsealed, hs]

theorem whileUnsealed_unsealed {s : State} (hs : s.isSealed = false) (f : State → Result) :
    whileUnsealed s f = f s := by simp [whileUnsealed, hs]

/-- Building the bank makes NUM_CPUS CPUs (R53, R503 step 1; log 16). -/
theorem initBank_next {s : State} (hs : s.isSealed = false) :
    ∃ t, initBank s = .next t ∧ t = { s with bank := t.bank } ∧
      ∀ c, t.touchBank.cpu? c = if c < s.params.numCpus then some (CpuState.reset s.params) else none := by
  refine ⟨_, whileUnsealed_unsealed hs _, rfl, fun c => ?_⟩
  rw [cpu?_touchBank_of_bank rfl]
  exact join_getElem?_replicate_reset ..

/-- After a shutdown no operation names a CPU (R30, R504; log 16). -/
theorem shutdownBank_next (s : State) :
    ∃ t, shutdownBank s = .next t ∧ t = { s with bank := t.bank } ∧ ∀ c f, withCpu t c f = .refused .cpuOutOfRange :=
  ⟨_, rfl, rfl, fun _ f => withCpu_none rfl f⟩

/-- After a de-registration no operation names that CPU, and the others are as before (R30, R504; log 16). -/
theorem deregisterCpu_next {s : State} {c : Nat} {x : CpuState} (hx : s.touchBank.cpu? c = some x) :
    ∃ t, deregisterCpu c s = .next t ∧ t = { s with bank := t.bank } ∧
      (∀ f, withCpu t c f = .refused .cpuOutOfRange) ∧ ∀ d, d ≠ c → t.touchBank.cpu? d = s.touchBank.cpu? d := by
  have hs : s.touchBank = { s with bank := s.touchBank.bank } := by
    unfold State.touchBank; split <;> rfl
  obtain ⟨cpus, hb⟩ : ∃ cpus, s.touchBank.bank = some cpus := by
    cases hb : s.touchBank.bank with
    | none => simp [State.cpu?, hb] at hx
    | some cpus => exact ⟨cpus, rfl⟩
  have hd : deregisterCpu c s = .next { s with bank := some (cpus.set c none) } := by
    rw [deregisterCpu, withCpu_some hx, hb, hs]; rfl
  refine ⟨_, hd, rfl, fun f => withCpu_none ?_ f, fun d hdc => ?_⟩
  · rw [cpu?_touchBank_of_bank rfl, List.getElem?_set_self']
    cases cpus[c]? <;> rfl
  · rw [cpu?_touchBank_of_bank rfl, List.getElem?_set_ne hdc.symm, State.cpu?, hb]

/-- Settles O54: one lemma per boot step, put together. -/
theorem resetReleaseSealsAndResets : Obligations.ResetReleaseSealsAndResets := by
  unfold Obligations.ResetReleaseSealsAndResets
  intro s
  refine ⟨rfl, releaseReset_next s, fun hs => ?_, fun hs => ?_, shutdownBank_next s, fun _ _ => deregisterCpu_next,
    fun hb c => ?_⟩
  · exact ⟨whileUnsealed_sealed hs _, fun _ => whileUnsealed_sealed hs _⟩
  · exact ⟨fun _ => whileUnsealed_unsealed hs _, initBank_next hs⟩
  · rw [cpu?_touchBank_of_none hb]
    exact ⟨fun hc => ⟨CpuState.reset s.params, if_pos hc, rfl⟩, fun hc => if_neg (by omega)⟩

end Sys2Proof.Proofs
end

section
/-! PROOFS. Applying a PalResult: the order of its actions (O45), and that an unflagged value is not read (O46). -/

namespace Sys2Proof.Proofs

open Sys2Proof.Machine Sys2Proof.Laws

/-- The order of the actions is allowed, in R352's words over the bits of `sideEffects` (R342, R358). -/
theorem allowedOrder_effectBits_iff {m : BitVec 32} {l : List PipelineEffect} :
    allowedOrder (effectBits m) l = true ↔ l.Nodup ∧ (∀ e, e ∈ l ↔ m.getLsbD e.bit = true) ∧
      (∀ l1 e l2, l = l1 ++ e :: l2 → e = .halt ∨ e = .notifyHalt → ∀ e' ∈ l2, e' = .halt ∨ e' = .notifyHalt) ∧
      ∀ l1 l2, l = l1 ++ PipelineEffect.tlbModified :: l2 → .pipelineFlush ∈ l → .pipelineFlush ∈ l1 := by
  simp only [allowedOrder_iff, hasEffect_effectBits, isHalt_iff]

/-- Settles O45: what is emitted is the pass-through and then `effectOrder`, which is allowed and is the chosen order if that
is. -/
theorem pipelineActionsComeInAnAllowedOrder : Obligations.PipelineActionsComeInAnAllowedOrder := by
  unfold Obligations.PipelineActionsComeInAnAllowedOrder
  intro s c x r order hx hh v allowed
  refine ⟨_, _, applyPalResult_next hx hh r order, rfl, allowedOrder_effectBits_iff.mp (effectOrder_allowed _ order),
    fun h => effectOrder_of_allowed (allowedOrder_effectBits_iff.mpr h)⟩

/-- `applyPalResult` answers a next state on a running CPU of the bank only, and then writes that CPU alone (R351, R353). -/
theorem bank_of_applyPalResult {s t : State} {c : Nat} {r : PalResult} {order : List PipelineEffect}
    (h : applyPalResult c r order s = .next t) :
    ∃ x, s.touchBank.cpu? c = some x ∧ t.bank = (s.touchBank.setCpu c (applyToCpu x r)).bank := by
  obtain ⟨x, hx, hf⟩ := withCpu_next h
  have hh : x.halted = false := by
    rw [← Bool.not_eq_true]; intro hh; rw [if_pos hh] at hf; cases hf
  rw [applyPalResult_next hx hh] at h
  cases h
  exact ⟨x, hx, rfl⟩

/-- Two results agree on the flags, on the values whose flag is 1, and on the effects (R64). -/
structure AgreeOnFlagged (r r' : PalResult) : Prop where
  psModified : r.psModified = r'.psModified
  newPS : r.psModified = true → r.newPS = r'.newPS
  iplModified : r.iplModified = r'.iplModified
  newIPL : r.iplModified = true → r.newIPL = r'.newIPL
  asnModified : r.asnModified = r'.asnModified
  newASN : r.asnModified = true → r.newASN = r'.newASN
  doesReturn : r.doesReturn = r'.doesReturn
  sideEffects : r.sideEffects = r'.sideEffects
  haltCode : r.sideEffects.getLsbD 5 = true → r.haltCode = r'.haltCode

/-- Such results do the same to a CPU: each value is read behind its flag (R64, R353, R354). -/
theorem applyToCpu_congr {r r' : PalResult} (x : CpuState) (h : AgreeOnFlagged r r') : applyToCpu x r = applyToCpu x r' := by
  have hipl : (if r.iplModified then r.newIPL else x.ipl) = if r.iplModified then r'.newIPL else x.ipl :=
    ite_congr rfl h.newIPL fun _ => rfl
  have hcm : (if r.psModified then r.newPS.extractLsb' 3 2 else x.cm) =
      if r.psModified then r'.newPS.extractLsb' 3 2 else x.cm :=
    ite_congr rfl (fun hb => by rw [h.newPS hb]) fun _ => rfl
  have hpctx : (if r.asnModified then pctxWithAsn x.pctx r.newASN else x.pctx) =
      if r.asnModified then pctxWithAsn x.pctx r'.newASN else x.pctx :=
    ite_congr rfl (fun hb => by rw [h.newASN hb]) fun _ => rfl
  have hhalt : (if hasEffect (effectBits r.sideEffects) .halt then r.haltCode else x.haltCode) =
      if hasEffect (effectBits r.sideEffects) .halt then r'.haltCode else x.haltCode :=
    ite_congr rfl (fun hb => h.haltCode (hasEffect_effectBits _ .halt ▸ hb)) fun _ => rfl
  rw [applyToCpu_eq, applyToCpu_eq, hipl, hcm, hpctx, hhalt, h.psModified, h.iplModified, h.asnModified, h.doesReturn,
    h.sideEffects]

/-- Settles O46: both results are applied to the same CPU, with the same effect on it. -/
theorem unflaggedValuesAreNotRead : Obligations.UnflaggedValuesAreNotRead := by
  unfold Obligations.UnflaggedValuesAreNotRead
  intro s t t' c r r' order hps hnewPS hipl hnewIPL hasn hnewASN hret heff hcode h h'
  obtain ⟨x, hx, hb⟩ := bank_of_applyPalResult h
  obtain ⟨x', hx', hb'⟩ := bank_of_applyPalResult h'
  obtain rfl : x = x' := Option.some.inj (hx.symm.trans hx')
  rw [hb, hb', applyToCpu_congr x ⟨hps, hnewPS, hipl, hnewIPL, hasn, hnewASN, hret, heff, hcode⟩]

end Sys2Proof.Proofs
end

section
/-! PROOFS. The fetch: instructions and their bytes (O5), and the request that runs a fetched word (O1). -/

namespace Sys2Proof.Proofs

open Sys2Proof.Machine Sys2Proof.Laws

/-! ### Words and their bytes -/

/-- The opcode and the other 26 bits determine the instruction: `Fields`, put together (R111, R118). -/
theorem ofFields_opcode_rest (i : Instr) : Instr.ofFields i.opcode i.rest = i := by
  cases i
  case inta hi fc lo => exact Fields.inta hi fc lo
  case intl hi fc lo => exact Fields.intl hi fc lo
  case ints hi fc lo => exact Fields.ints hi fc lo
  case intm hi fc lo => exact Fields.intm hi fc lo
  case itfp hi fc lo => exact Fields.itfp hi fc lo
  case fltv hi fc lo => exact Fields.fltv hi fc lo
  case flti hi fc lo => exact Fields.flti hi fc lo
  case fltl hi fc lo => exact Fields.fltl hi fc lo
  case misc hi fc => exact Fields.misc hi fc
  case jsr hi fc lo => exact Fields.jsr hi fc lo
  case fpti hi fc lo => exact Fields.fpti hi fc lo
  all_goals rfl

theorem decodeWord_encode (i : Instr) : decodeWord (encode i) = i := by
  rw [decodeWord, opcodeOf_encode, restOf_encode, ofFields_opcode_rest]

/-- A word laid out in memory is the one that is fetched, and what follows it is left over (R91, R110). -/
theorem decodeBytes_layWord (o : ByteOrder) (w : Word) (bs : List Byte) :
    decodeBytes o (layWord o w ++ bs) = .ok (decodeWord w, bs) := by
  have hw := congrArg (fun v => Except.ok (ε := DecodeError) (decodeWord v, bs)) (bytes_append w)
  cases o <;> exact hw

theorem decodeBytes_of_length_lt {o : ByteOrder} : ∀ {bs : List Byte}, bs.length < 4 → decodeBytes o bs = .error .truncated
  | [], _ | [_], _ | [_, _], _ | [_, _, _], _ => rfl
  | _ :: _ :: _ :: _ :: bs, h => by simp only [List.length_cons] at h; omega

/-- The bytes of four bytes put together, the lowest first. -/
theorem bytes_of_append (b3 b2 b1 b0 : Byte) :
    let w : Word := b3 ++ b2 ++ b1 ++ b0
    w.extractLsb' 0 8 = b0 ∧ w.extractLsb' 8 8 = b1 ∧ w.extractLsb' 16 8 = b2 ∧ w.extractLsb' 24 8 = b3 := by
  intro w
  have hhigh : w.extractLsb' 16 16 = b3 ++ b2 := extract_append_top (b3 ++ b2) b1 b0
  refine ⟨extract_append_lo (b3 ++ b2 ++ b1) b0, extract_append_mid (b3 ++ b2) b1 b0, ?_, ?_⟩
  · rw [← extract_append_lo b3 b2, ← hhigh, extract_extract w (by omega)]
  · rw [← extract_append_hi b3 b2, ← hhigh, extract_extract w (by omega)]

/-- The fetched word laid out again is the bytes it was built from (R91; log 24). -/
theorem layWord_assembleWord (o : ByteOrder) (b0 b1 b2 b3 : Byte) : layWord o (assembleWord o b0 b1 b2 b3) = [b0, b1, b2, b3] := by
  cases o with
  | little =>
    obtain ⟨h0, h1, h2, h3⟩ := bytes_of_append b3 b2 b1 b0
    rw [layWord, assembleWord, h0, h1, h2, h3]
  | big =>
    obtain ⟨h3, h2, h1, h0⟩ := bytes_of_append b0 b1 b2 b3
    rw [layWord, assembleWord, h0, h1, h2, h3]

/-- Settles O5: laying out and fetching are inverse to each other, in both byte orders. -/
theorem instructionBytesReadBack : Obligations.InstructionBytesReadBack := by
  unfold Obligations.InstructionBytesReadBack
  refine ⟨fun o i bs => ?_, fun _ _ => decodeBytes_of_length_lt, fun b0 b1 b2 b3 => ⟨?_, ?_⟩⟩
  · rw [decodeBytes_layWord, decodeWord_encode]
  · exact List.map_inj_left.mp (layWord_assembleWord .little b0 b1 b2 b3)
  · exact List.map_inj_left.mp (layWord_assembleWord .big b0 b1 b2 b3)

/-! ### The fetch request -/

/-- A step that serves a fetch runs the word on the CPU and the PC of the request (R147, R151; log 3). -/
theorem step_decode {s : State} {c : Nat} {w : Word} {pc : Quad} {rest : List Request} {x : CpuState}
    (hr : s.requests = ⟨.cpu c, .decode c w pc⟩ :: rest) (hx : s.touchBank.cpu? c = some x) (hb : x.busy = none) :
    step s = exec (decodeWord w) { s with requests := rest, outputs := [], current := ⟨c, pc⟩ } := by
  have hx' : (s.popRequest rest).touchBank.cpu? c = some x := by rw [touchBank_popRequest, cpu?_popRequest, hx]
  rw [step_of_turnedAway hr (turnedAway_cpu (by simp [permitted]) hx' hb)]
  rfl

/-- Settles O1: the word of the request is the one its bytes decode from. -/
theorem stepRunsTheDecodedInstruction : Obligations.StepRunsTheDecodedInstruction := by
  unfold Obligations.StepRunsTheDecodedInstruction
  intro s c b0 b1 b2 b3 pc rest x i bs hd hr hx hb
  obtain rfl : decodeWord (assembleWord s.params.fetchByteOrder b0 b1 b2 b3) = i := by cases hd; rfl
  exact step_decode hr hx hb

end Sys2Proof.Proofs
end

section
/-! PROOFS. The reads of IPI_DATA, and the acquires of IPI_REQUEST that order them (O49). -/

namespace Sys2Proof.Proofs

open Sys2Proof.Machine Sys2Proof.Laws

/-- After an acquire by r the record holds whoever it held, and r if it observed a request (R96, R99). -/
theorem mem_observeIpi (seen : List Nat) (r q : Nat) (saw : Bool) :
    q ∈ observeIpi seen r saw ↔ (q = r ∧ saw = true) ∨ q ∈ seen := by
  by_cases h : q = r
  · subst h; simp [mem_observeIpi_self]
  · simp [mem_observeIpi_other _ _ h, h]

section
variable {s : State} {c : Nat} {x : CpuState} (hx : s.touchBank.cpu? c = some x)
include hx

/-- A read of IPI_DATA that an acquire orders returns the data (R96, R99). -/
theorem readF_ipiData_of_mem {reader : Nat} (h : reader ∈ x.ipiSeen) :
    readF reader c .ipiData s = .next (s.touchBank.emit [.value x.ipiData]) := by
  have hdata : readField s.params x .ipiData = x.ipiData := BitVec.and_allOnes
  simp only [readF, withCpu_some hx, if_pos h, touchBank_params, hdata]

/-- A racing read of IPI_DATA draws a free value (R99; log 12). -/
theorem readF_ipiData_of_notMem {reader : Nat} (h : reader ∉ x.ipiSeen) : readF reader c .ipiData s =
    .next ({ s.touchBank with draws := s.draws + 1 }.emit [.value (Config.freeWord s.draws)]) := by
  simp only [readF, withCpu_some hx, if_neg h, touchBank_draws]

/-- A read of IPI_REQUEST returns it and records the acquire (R96). -/
theorem readF_ipiRequest_next (reader : Nat) : readF reader c .ipiRequest s =
    .next ((s.touchBank.setCpu c (x.acquireIpi reader)).emit [.value (if x.ipiRequest then 1 else 0)]) := by
  have hbit : readField s.params x .ipiRequest = if x.ipiRequest then 1 else 0 := by
    cases h : x.ipiRequest <;> simp [readField, fieldBits, fieldMask, bitValue_eq, h]
  simp only [readF, withCpu_some hx, touchBank_params, hbit]

theorem ackIPI_next : ackIPI c s = .next (s.touchBank.setCpu c
    { x.acquireIpi c with ipiRequest := false, busy := some (.ackInterrupt x.ipiRequest) }) := by
  rw [ackIPI, withCpu_some hx]

/-- The owner's queries and its acknowledge acquire IPI_REQUEST (R44, R432, R451; log 12). -/
theorem perform_acquires {op : Op} (hop : op ∈ [Op.hasPendingEvent c, .eventPendingState c, .ackIPI c]) :
    ∃ t y, perform (.cpu c) op s = .next t ∧ t.cpu? c = some y ∧ y.ipiSeen = observeIpi x.ipiSeen c x.ipiRequest := by
  have hquery := queryPending_next hx
  simp only [List.mem_cons, List.not_mem_nil, or_false] at hop
  rcases hop with rfl | rfl | rfl
  · exact ⟨_, x.acquireIpi c, hquery fun _ x => .flag (hasPendingEvent x), cpu?_setCpu_same _ hx, rfl⟩
  · exact ⟨_, x.acquireIpi c, hquery fun p x => .event (arbitrate p x), cpu?_setCpu_same _ hx, rfl⟩
  · exact ⟨_, _, ackIPI_next hx, cpu?_setCpu_same _ hx, rfl⟩

end

/-- Settles O49: each acquire leaves `observeIpi` of what it observed, and a consumption observes a request where its
arbitration reads one. -/
theorem racingIpiReadIsFree : Obligations.RacingIpiReadIsFree := by
  unfold Obligations.RacingIpiReadIsFree
  intro s reader c x hx
  refine ⟨readF_ipiData_of_mem hx, readF_ipiData_of_notMem hx, ?_, fun op hop => ?_, fun hh => ?_⟩
  · exact ⟨x.acquireIpi reader, readF_ipiRequest_next hx reader, mem_observeIpi_self _ _ _,
      fun q hq => mem_observeIpi_other _ _ hq, rfl⟩
  · obtain ⟨t, y, hperf, hy, hseen⟩ := perform_acquires hx hop
    exact ⟨t, y, hperf, hy, fun q => by rw [hseen, mem_observeIpi]⟩
  · refine ⟨_, _, consumeEvent_next hx hh, cpu?_setCpu_same _ hx, fun q => ?_⟩
    rw [consume_ipiSeen, arbiterLoads_ipiSeen, mem_observeIpi]
    simp only [Bool.and_eq_true, decide_eq_true_eq, Bool.not_eq_true']
    tauto

end Sys2Proof.Proofs
end

section
/-! PROOFS. Encoding and decoding are inverse (O3, O4), the function code of an instruction's word (O7), and the word placed
for the next fetch (O2). -/

namespace Sys2Proof.Proofs

open Sys2Proof.Machine Sys2Proof.Laws

/-- Settles O3: the encoded opcode and rest are cut out of the word again, and determine the instruction. -/
theorem decodeOfEncodeIsTheInstruction : Obligations.DecodeOfEncodeIsTheInstruction := decodeWord_encode

/-- The row of R118 keeps the opcode and all 26 other bits, and they are the whole word. -/
@[simp] theorem encode_decodeWord (w : Word) : encode (decodeWord w) = w := by
  rw [encode, decodeWord, ofFields_opcode, ofFields_rest, opcode_append_rest]

/-- Settles O4. -/
theorem encodeOfDecodeIsTheWord : Obligations.EncodeOfDecodeIsTheWord := encode_decodeWord

/-- One group of instructions per default format class, and the class's field as its function code (R114, R115, R118). -/
theorem extractFc_encode_default (i : Instr) : extractFc Params.default (encode i) = i.fnCode := by
  cases i
  case callPal fc | hwMfpr fc | hwLd fc | hwMtpr fc | hwRei fc | hwSt fc => exact extractFc_pal rfl fc
  case inta hi fc lo | intl hi fc lo | ints hi fc lo | intm hi fc lo | fpti hi fc lo => exact extractFc_operate rfl hi fc lo
  case itfp hi fc lo | fltv hi fc lo | flti hi fc lo | fltl hi fc lo => exact extractFc_float rfl hi fc lo
  case misc hi fc => exact extractFc_memory_barrier rfl rfl hi fc
  case jsr hi fc lo => exact extractFc_jump rfl rfl hi fc lo
  case opc01 r | opc02 r | opc03 r | opc04 r | opc05 r | opc06 r | opc07 r => exact extractFc_none (.inr (.inr rfl)) r
  case br r | fbeq r | fblt r | fble r | bsr r | fbne r | fbge r | fbgt r | blbc r | beq r | blt r | ble r | blbs r | bne r |
      bge r | bgt r => exact extractFc_none (.inr (.inl rfl)) r
  -- The memory class is what is left.
  all_goals exact extractFc_none (.inl rfl) _

/-- Settles O7: the default tables decide what `extractFc` reads. -/
theorem functionCodeIsTheFormatsField : Obligations.FunctionCodeIsTheFormatsField := by
  unfold Obligations.FunctionCodeIsTheFormatsField
  intro p i hp
  rw [extractFc_default hp, extractFc_encode_default]

/-- Placing a word for the next fetch touches no CPU (R502; log 3). -/
theorem cpu?_touchBank_withFetchWord (s : State) (nbits w c : Nat) :
    (s.withFetchWord nbits w).touchBank.cpu? c = s.touchBank.cpu? c := by
  apply cpu?_of_bank_eq
  cases hb : s.bank with
  | none => rw [touchBank_of_none hb, touchBank_of_none (by rw [withFetchWord_bank, hb]), withFetchWord_params]
  | some cpus => rw [touchBank_of_bank hb, touchBank_of_bank (by rw [withFetchWord_bank, hb]), withFetchWord_bank]

/-- Settles O2: the placed word is the oldest request, a fetch of CPU 0. -/
theorem placedWordIsTheNextInstruction : Obligations.PlacedWordIsTheNextInstruction := by
  unfold Obligations.PlacedWordIsTheNextInstruction
  intro s nbits w x hx hb
  rw [step_decode (withFetchWord_requests ..) (by rw [cpu?_touchBank_withFetchWord, hx]) hb]
  rfl

end Sys2Proof.Proofs
end

section
/-! PROOFS. The decode stage for any tables: its checks in order (O19), and what it reads of the word (O8). -/

namespace Sys2Proof.Proofs

open Sys2Proof.Machine Sys2Proof.Laws

/-! ### What the decode stage decides, check by check (R151) -/

section
variable {p : Params} {reg : Registry} {active : Platform} {pal fpe : Bool} {w : Word}

/-- Step 1: the opcode has no unit or no format (R119, R272, R273, R275). -/
abbrev HasNoUnit (p : Params) (op : Opcode) : Prop :=
  route p op = .unknown ∨ route p op = .vector ∨ formatOf p op = .unknown ∨ formatOf p op = .vector

/-- Step 2: a hardware-internal opcode outside PAL mode, where that is illegal (D10). -/
abbrev IsOutsidePal (p : Params) (pal : Bool) (op : Opcode) : Prop :=
  isHardwareInternal p op = true ∧ p.hwintRequiresPal = true ∧ pal = false

/-- Step 4: an FP opcode with FP off (D11). -/
abbrev HasNoFp (p : Params) (fpe : Bool) (op : Opcode) : Prop := isFpOpcode p op = true ∧ fpe = false

theorem decide151_noUnit (h : HasNoUnit p (opcodeOf w)) :
    decide151 p reg active pal fpe w = .trap .illegalInstruction := if_pos h

variable (hu : ¬ HasNoUnit p (opcodeOf w))
include hu

theorem decide151_outsidePal (h : IsOutsidePal p pal (opcodeOf w)) :
    decide151 p reg active pal fpe w = .trap .illegalInstruction := by
  obtain ⟨hhw, hreq, hpal⟩ := h
  rw [decide151, if_neg hu, if_pos (by simp [hhw, hreq, hpal])]

variable (hm : ¬ IsOutsidePal p pal (opcodeOf w))
include hm

theorem decide151_noGrain (h : resolveGrain p reg active w = none) :
    decide151 p reg active pal fpe w = .trap .illegalInstruction := by
  rw [decide151, if_neg hu, if_neg (by simpa using hm), h]

variable {g : Grain} (hg : resolveGrain p reg active w = some g)
include hg

theorem decide151_noFp (h : HasNoFp p fpe (opcodeOf w)) : decide151 p reg active pal fpe w = .trap .fpDisabled := by
  obtain ⟨hop, hfpe⟩ := h
  rw [decide151, if_neg hu, if_neg (by simpa using hm), hg]
  exact if_pos (by simp [hop, hfpe])

theorem decide151_out (h : ¬ HasNoFp p fpe (opcodeOf w)) :
    decide151 p reg active pal fpe w = .out ⟨g, opcodeOf w, extractFc p w, formatOf p (opcodeOf w), route p (opcodeOf w),
      isHardwareInternal p (opcodeOf w)⟩ := by
  rw [decide151, if_neg hu, if_neg (by simpa using hm), hg]
  exact if_neg (by simpa using h)

end

/-! ### The word's instruction at a boundary -/

section
variable {s : State} {x : CpuState} {w : Word} {cls : TrapClass} (hb : AtBoundary s x)
include hb

theorem exec_decodeWord_delivered {d : DecodeOut}
    (hd : decide151 s.params s.registry s.activePlatform x.palMode x.fpe w = .out d) :
    exec (decodeWord w) s = .next (s.delivered d) := exec_delivered hb (by rw [encode_decodeWord, hd])

theorem exec_decodeWord_trapped (hw : x.wf s.params = true)
    (hd : decide151 s.params s.registry s.activePlatform x.palMode x.fpe w = .trap cls) :
    exec (decodeWord w) s = .next (s.trapped x cls w) := by
  rw [exec_trapped hb hw (by rw [encode_decodeWord, hd]), encode_decodeWord]

/-- A trap of the decode stage is a raise, whatever the slot holds (R153). -/
theorem exec_decodeWord_raises (hd : decide151 s.params s.registry s.activePlatform x.palMode x.fpe w = .trap cls) :
    exec (decodeWord w) s = .next ((s.touchBank.raise s.current.cpu x cls s.current.pc (w.setWidth 64)
      ⟨false, false, false⟩).emit []) := by
  obtain ⟨hx, hh, hs, he⟩ := hb
  rw [exec_eq_decodeStage, encode_decodeWord, decodeStage_of hx hh hs he, hd, raise_eq, touchBank_params]

end

/-- Settles O19: at a boundary what the decode stage decides is what happens, and it decides by the first check that
applies. -/
theorem decodeStageChecksInOrder : Obligations.DecodeStageChecksInOrder := by
  unfold Obligations.DecodeStageChecksInOrder
  intro w s x hb hw p op noUnit outsidePal found noFp
  refine ⟨fun hu => ?_, fun hu hm => ?_, fun hu hm hg => ?_, fun g hu hm hg hf => ?_, fun g hu hm hg hf => ?_⟩
  · exact exec_decodeWord_trapped hb hw (decide151_noUnit hu)
  · exact exec_decodeWord_trapped hb hw (decide151_outsidePal hu hm)
  · exact exec_decodeWord_trapped hb hw (decide151_noGrain hu hm hg)
  · exact exec_decodeWord_trapped hb hw (decide151_noFp hu hm hg hf)
  · exact exec_decodeWord_delivered hb (decide151_out hu hm hg hf)

/-! ### The bits the decode stage reads -/

/-- The word is read through its opcode and its function code only (R154, R121). -/
theorem decide151_congr {p : Params} {w v : Word} (hop : opcodeOf w = opcodeOf v) (hfc : extractFc p w = extractFc p v)
    (reg : Registry) (active : Platform) (pal fpe : Bool) :
    decide151 p reg active pal fpe w = decide151 p reg active pal fpe v := by
  simp only [decide151, resolveGrain, hop, hfc]

/-- Away from a boundary every instruction stops, and by the same name (R30, R48, R146, R431). -/
theorem atBoundary_or_stops (s : State) :
    (∃ x, AtBoundary s x) ∨ ∃ stop : Result, (∀ t, stop ≠ .next t) ∧ ∀ i, exec i s = stop := by
  have byName := fun i => decodeStopsByName i s
  cases hx : s.touchBank.cpu? s.current.cpu with
  | none => exact .inr ⟨.refused .cpuOutOfRange, nofun, fun i => (byName i).1 hx⟩
  | some x =>
    have byName := fun i => (byName i).2 x hx
    cases hh : x.halted with
    | true => exact .inr ⟨.fault .cpuHalted, nofun, fun i => (byName i).1 hh⟩
    | false =>
      cases hs : s.isSealed with
      | false => exact .inr ⟨.refused .registryUnsealed, nofun, fun i => (byName i).2.1 hh hs⟩
      | true =>
        by_cases he : (arbitrate s.params x).kind = .none
        · exact .inl ⟨x, hx, hh, hs, he⟩
        · exact .inr ⟨.fault .eventNotConsumed, nofun, fun i => (byName i).2.2 hh hs he⟩

/-- Settles O8: at a boundary both words get the same decision; elsewhere no word is looked at. -/
theorem unreadBitsDoNotAffectDecode : Obligations.UnreadBitsDoNotAffectDecode := by
  unfold Obligations.UnreadBitsDoNotAffectDecode
  intro s w v hop hfc
  rcases atBoundary_or_stops s with ⟨x, hb⟩ | ⟨stop, hnext, hstop⟩
  · have same := decide151_congr hop hfc s.registry s.activePlatform x.palMode x.fpe
    cases hd : decide151 s.params s.registry s.activePlatform x.palMode x.fpe w with
    | out d =>
      rw [exec_decodeWord_delivered hb hd, exec_decodeWord_delivered hb (same.symm.trans hd)]
      exact ⟨fun _ _ h _ => h, by rintro _ ⟨⟩ ⟨⟩, fun _ h => h, fun _ h => h⟩
    | trap cls =>
      have hw := exec_decodeWord_raises hb hd
      have hv := exec_decodeWord_raises hb (same.symm.trans hd)
      refine ⟨?_, fun _ _ _ => ⟨x, cls, List.forall_mem_cons.mpr ⟨hw, List.forall_mem_singleton.mpr hv⟩⟩, ?_, ?_⟩ <;> rw [hw]
      · rintro _ _ ⟨⟩ ⟨⟩
      · rintro _ ⟨⟩
      · rintro _ ⟨⟩
  · rw [hstop, hstop]
    exact ⟨fun _ _ h _ => h, fun t h => absurd h (hnext t), fun _ h => h, fun _ h => h⟩

end Sys2Proof.Proofs
end

section
/-! PROOFS. Which function codes share a registry key (O25). -/

namespace Sys2Proof.Proofs

open Sys2Proof.Machine Sys2Proof.Laws

section
variable {p : Params} {op : Opcode}

theorem foldKey_hwInternal (h : isHardwareInternal p op = true) (fc : FnCode) (plat : Platform) :
    foldKey p op fc plat = ⟨op, 0, plat⟩ := by rw [foldKey, if_pos h]

theorem foldKey_not_hwInternal (h : isHardwareInternal p op = false) (fc : FnCode) (plat : Platform) :
    foldKey p op fc plat = ⟨op, fc, plat⟩ := by rw [foldKey, if_neg (by simp [h])]

/-- A grain at the exact key is found (R144). -/
theorem lookupGrain_of_grainAt {reg : Registry} {fc : FnCode} {plat : Platform} {g : Grain}
    (h : grainAt reg (foldKey p op fc plat) = some g) : lookupGrain p reg op fc plat = some g := by
  simp only [lookupGrain, h]

/-- A lookup reads the folded key, under its platform and under BASE, and no other (R144). -/
theorem lookupGrain_congr {reg reg' : Registry} {fc : FnCode}
    (h : ∀ plat, grainAt reg (foldKey p op fc plat) = grainAt reg' (foldKey p op fc plat)) (plat : Platform) :
    lookupGrain p reg op fc plat = lookupGrain p reg' op fc plat := by
  have hbase : grainAt reg { foldKey p op fc plat with platform := Platform.base } =
      grainAt reg' { foldKey p op fc plat with platform := Platform.base } := h Platform.base
  simp only [lookupGrain, h plat, hbase]

end

/-- Settles O25: folded, every function code reads the key that was registered; not folded, another function code reads
neither that key nor its BASE fallback. -/
theorem onlyHardwareInternalCodesFold : Obligations.OnlyHardwareInternalCodesFold := by
  unfold Obligations.OnlyHardwareInternalCodesFold
  intro p reg op fc fc' plat plat' g
  refine ⟨fun hhw hfree => lookupGrain_of_grainAt ?_, fun hhw hfc => lookupGrain_congr (fun q => ?_) plat'⟩
  · have hkey := foldKey_hwInternal hhw
    rw [grainAt_registerGrain (by rw [hkey, hfree]), hkey, hkey, if_pos rfl]
  · apply grainAt_registerGrain_other
    rw [foldKey_not_hwInternal hhw, foldKey_not_hwInternal hhw]
    intro hkey
    exact hfc (congrArg GrainKey.fc hkey).symm

end Sys2Proof.Proofs
end

section
/-! PROOFS. The frame of every instruction (O21). -/

namespace Sys2Proof.Proofs

open Sys2Proof.Machine Sys2Proof.Laws

/-- All that the decode stage writes is the current CPU's slot and the outputs, and never both: delivering DecodeOut leaves
the slot, and raising a trap (`raiseTrap_eq`) puts nothing out (R153). -/
theorem decodeStage_writes {w : Word} {s t : State} (h : decodeStage w s = .next t) :
    ∃ (x : CpuState) (e : PendingEvent) (o : List Output), s.touchBank.cpu? s.current.cpu = some x ∧
      t = (s.touchBank.setCpu s.current.cpu { x with slot := e }).emit o ∧ (o ≠ [] → e = x.slot) := by
  obtain ⟨x, hx, -, -, -, ⟨d, -, rfl⟩ | ⟨cls, -, rfl⟩⟩ := decodeStage_next h
  · exact ⟨x, x.slot, [.decoded d], hx, by rw [setCpu_self hx], fun _ => rfl⟩
  · exact ⟨x, _, [], hx, by rw [raiseTrap_eq], fun hne => absurd rfl hne⟩

/-- Settles O21, from `decodeStage_writes`. -/
theorem decodeChangesOnlyTheSlot : Obligations.DecodeChangesOnlyTheSlot := by
  unfold Obligations.DecodeChangesOnlyTheSlot
  intro i s t h
  rw [exec_eq_decodeStage] at h
  obtain ⟨x, e, o, hx, rfl, hslot⟩ := decodeStage_writes h
  refine ⟨touchBank_params s, touchBank_registry s, touchBank_activePlatform s, touchBank_isSealed s, touchBank_current s,
    touchBank_requests s, touchBank_draws s, fun c hc => ?_, x, e, hx, ?_, hslot⟩
  · rw [cpu?_emit, cpu?_setCpu_other _ hc]
  · rw [cpu?_emit, cpu?_setCpu_same _ hx]

end Sys2Proof.Proofs
end

section
/-! PROOFS. The registry's operations on the state: the seal (O22), registering (O23, O24), and looking up (O26, O27). -/

namespace Sys2Proof.Proofs

open Sys2Proof.Machine Sys2Proof.Laws

/-! ### What each operation answers -/

theorem whileSealed_sealed {s : State} (hs : s.isSealed = true) (f : State → Result) : whileSealed s f = f s := by
  simp [whileSealed, hs]

theorem whileSealed_unsealed {s : State} (hs : s.isSealed = false) (f : State → Result) :
    whileSealed s f = .refused .registryUnsealed := by simp [whileSealed, hs]

section
variable {op : Opcode} {fc : FnCode} {plat : Platform} {s : State}

/-- Registering a held key answers false and writes nothing (R143). -/
theorem register_held (g : Grain) {g0 : Grain} (hs : s.isSealed = false)
    (h : grainAt s.registry (foldKey s.params op fc plat) = some g0) :
    register op fc plat g s = .next (s.emit [.flag false]) := by
  rw [register, whileUnsealed_unsealed hs, registerGrain_held h]

/-- Registering a new key answers true and writes the registry (R142). -/
theorem register_new (g : Grain) (hs : s.isSealed = false) (h : grainAt s.registry (foldKey s.params op fc plat) = none) :
    register op fc plat g s =
      .next ({ s with registry := (registerGrain s.params s.registry op fc plat g).2 }.emit [.flag true]) := by
  rw [register, whileUnsealed_unsealed hs, registerGrain_new h]

/-- A lookup after the seal hands back what the registry finds (R144). -/
theorem lookup_next {found : Option Grain} (hs : s.isSealed = true)
    (h : lookupGrain s.params s.registry op fc plat = found) : lookup op fc plat s = .next (s.emit [.grain found]) := by
  rw [lookup, whileSealed_sealed hs, h]

end

/-- The registration of a new key makes one entry (R145). -/
theorem grainCount_registerGrain {p : Params} {reg : Registry} {op : Opcode} {fc : FnCode} {plat : Platform} {g : Grain}
    (h : grainAt reg (foldKey p op fc plat) = none) :
    grainCount (registerGrain p reg op fc plat g).2 = grainCount reg + 1 := by
  rw [registerGrain_new h]; exact List.length_append

/-- Where the registry does not hold the exact key, the lookup is that of the BASE key, which is the same key where the
platform is BASE (R144). -/
theorem lookupGrain_of_absent {p : Params} {reg : Registry} {op : Opcode} {fc : FnCode} {plat : Platform}
    (h : grainAt reg (foldKey p op fc plat) = none) :
    lookupGrain p reg op fc plat = grainAt reg (foldKey p op fc Platform.base) := by
  simp only [lookupGrain, h]
  split
  · next hbase => rw [← hbase, h]
  · rfl

/-- Where no entry of an opcode is under BASE, a BASE lookup of it finds nothing (R148). -/
theorem lookupGrain_base_of_forall_ne {p : Params} {reg : Registry} {op : Opcode} (fc : FnCode)
    (h : ∀ e ∈ reg, e.1.opcode = op → e.1.platform ≠ Platform.base) : lookupGrain p reg op fc Platform.base = none := by
  have habsent : grainAt reg (foldKey p op fc Platform.base) = none :=
    grainAt_none.mpr fun e he hkey => h e he (congrArg GrainKey.opcode hkey) (congrArg GrainKey.platform hkey)
  rw [lookupGrain_of_absent habsent, habsent]

/-- The resolver is a lookup under its query platform (R147). -/
theorem resolve_eq_lookup (w : Word) (s : State) :
    resolve w s = lookup (opcodeOf w) (extractFc s.params w) (queryPlatform s.params s.activePlatform (opcodeOf w)) s := rfl

/-! ### The statements -/

/-- Settles O22: each operation's guard, and `decodeStopsByName` for the decode stage. -/
theorem sealSeparatesRegistrationFromLookup : Obligations.SealSeparatesRegistrationFromLookup := by
  unfold Obligations.SealSeparatesRegistrationFromLookup
  intro s op fc plat g w i x
  refine ⟨fun hs => whileUnsealed_sealed hs _, fun hs => ⟨whileSealed_unsealed hs _, whileSealed_unsealed hs _, ?_⟩⟩
  intro hx hh
  obtain ⟨-, hin⟩ := decodeStopsByName i s
  obtain ⟨-, hunsealed, -⟩ := hin x hx
  exact hunsealed hh hs

/-- Settles O23: the folded key is held or new. -/
theorem registerStoresUnderTheFoldedKey : Obligations.RegisterStoresUnderTheFoldedKey := by
  unfold Obligations.RegisterStoresUnderTheFoldedKey
  intro op fc plat g s k
  refine ⟨fun hs => whileUnsealed_sealed hs _, fun hs => ⟨fun hheld => ?_, fun hnew => ?_⟩⟩
  · obtain ⟨g0, hg0⟩ := Option.isSome_iff_exists.mp hheld
    exact register_held g hs hg0
  · exact ⟨_, register_new g hs hnew, grainAt_registerGrain hnew, grainCount_registerGrain hnew⟩

/-- Settles O24: the key registered is the exact key looked up, and the seal is no part of it. -/
theorem registryRoundTrip : Obligations.RegistryRoundTrip := by
  unfold Obligations.RegistryRoundTrip
  intro op fc plat g s hs hnew
  have hstored : grainAt (registerGrain s.params s.registry op fc plat g).2 (foldKey s.params op fc plat) = some g := by
    rw [grainAt_registerGrain hnew, if_pos rfl]
  exact ⟨_, register_new g hs hnew, lookup_next rfl (lookupGrain_of_grainAt hstored)⟩

/-- Settles O26: the exact key decides where it is held, and else the BASE key. -/
theorem lookupFallsBackOnceToBase : Obligations.LookupFallsBackOnceToBase := by
  unfold Obligations.LookupFallsBackOnceToBase
  intro op fc plat s k
  refine ⟨fun hs => whileSealed_unsealed hs _, fun hs => ⟨fun g hexact => ?_, fun g habsent _ hbase => ?_, ?_⟩⟩
  · exact lookup_next hs (lookupGrain_of_grainAt hexact)
  · exact lookup_next hs ((lookupGrain_of_absent habsent).trans hbase)
  · rintro habsent (rfl | hbase)
    · exact lookup_next hs ((lookupGrain_of_absent habsent).trans habsent)
    · exact lookup_next hs ((lookupGrain_of_absent habsent).trans hbase)

/-- Settles O27: the query platform by the opcode's mark, and the lookup under BASE. -/
theorem hardwareInternalGrainsLiveUnderBase : Obligations.HardwareInternalGrainsLiveUnderBase := by
  unfold Obligations.HardwareInternalGrainsLiveUnderBase
  intro s w
  have hbase (hhw : isHardwareInternal s.params (opcodeOf w) = true) :
      resolve w s = lookup (opcodeOf w) (extractFc s.params w) Platform.base s := by
    rw [resolve_eq_lookup, queryPlatform, if_pos hhw]
  refine ⟨fun hhw => ?_, hbase, fun hs hhw hoff => ?_⟩
  · rw [resolve_eq_lookup, queryPlatform, if_neg (by simp [hhw])]
  · rw [hbase hhw]
    exact lookup_next hs (lookupGrain_base_of_forall_ne _ hoff)

end Sys2Proof.Proofs
end

section
/-! PROOFS. The opcode groups, row by row (O9 to O18), and the words of the worked examples (O6). -/

namespace Sys2Proof.Proofs

open Sys2Proof.Machine Sys2Proof.Laws

/-! ### A row of the default tables -/

/-- What the default tables say of an opcode: its format class, its unit, and whether it is hardware-internal and whether
it is an FP opcode (R112, R117, R270, D11). -/
def defaultRow (op : Opcode) : FormatClass × ExecUnit × Bool × Bool :=
  (formatOf Params.default op, route Params.default op, isHardwareInternal Params.default op, isFpOpcode Params.default op)

section
variable {i : Instr} {fmt : FormatClass} {unit : ExecUnit}

theorem defaultRow_eq {op : Opcode} {hw fp : Bool} :
    defaultRow op = (fmt, unit, hw, fp) ↔ formatOf Params.default op = fmt ∧ route Params.default op = unit ∧
      isHardwareInternal Params.default op = hw ∧ isFpOpcode Params.default op = fp := by
  simp only [defaultRow, Prod.mk.injEq]

/-- A row with a class and a unit, neither hardware-internal nor FP, has no gate (R151). -/
theorem decodesPlain_of_row (hrow : defaultRow i.opcode = (fmt, unit, false, false))
    (hreal : ¬ (unit = .unknown ∨ unit = .vector ∨ fmt = .unknown ∨ fmt = .vector)) :
    DecodesPlain i i.opcode i.fnCode fmt unit (encode i) := by
  obtain ⟨hfmt, hunit, hhw, hfp⟩ := defaultRow_eq.mp hrow
  exact decodesPlain_of (extractFc_encode_default i) hfmt hunit hreal hhw hfp

/-- A row with a class and a unit, FP but not hardware-internal, is gated by PCTX.FPE (R151 step 4). -/
theorem decodesFp_of_row (hrow : defaultRow i.opcode = (fmt, unit, false, true))
    (hreal : ¬ (unit = .unknown ∨ unit = .vector ∨ fmt = .unknown ∨ fmt = .vector)) :
    DecodesFp i i.opcode i.fnCode fmt unit (encode i) := by
  obtain ⟨hfmt, hunit, hhw, hfp⟩ := defaultRow_eq.mp hrow
  exact decodesFp_of (extractFc_encode_default i) hfmt hunit hreal hhw hfp

/-- A hardware-internal row, of class PAL, is gated by PAL mode and looked up under BASE (R148, R151 step 2). -/
theorem decodesHw_of_row (hrow : defaultRow i.opcode = (.pal, .hwInternal, true, false)) :
    DecodesHw i i.opcode i.fnCode (encode i) := by
  obtain ⟨hfmt, hunit, hhw, hfp⟩ := defaultRow_eq.mp hrow
  exact decodesHw_of (extractFc_encode_default i) hfmt hunit hhw hfp

end

/-! ### The groups -/

/-- Settles O9: the three rows and their function-code fields. -/
theorem callPalMiscAndJumpGroupsDecode : Obligations.CallPalMiscAndJumpGroupsDecode := by
  unfold Obligations.CallPalMiscAndJumpGroupsDecode
  refine ⟨fun fc => ?_, fun hi fc => ?_, fun hi fc lo => ?_⟩
  · exact decodesPlain_of_row (i := .callPal fc) rfl (by decide)
  · exact decodesPlain_of_row (i := .misc hi fc) rfl (by decide)
  · exact decodesPlain_of_row (i := .jsr hi fc lo) rfl (by decide)

/-- Settles O10: UNIT_OF gives each of the seven opcodes no unit. -/
theorem reservedGroupsAreIllegal : Obligations.ReservedGroupsAreIllegal := by
  unfold Obligations.ReservedGroupsAreIllegal
  intro bits e he
  fin_cases he <;> exact decodesReserved_of (.inl rfl)

/-- Settles O11: eight rows of class MEMORY with no gate. -/
theorem lowMemoryGroupsDecode : Obligations.LowMemoryGroupsDecode := by
  unfold Obligations.LowMemoryGroupsDecode
  intro bits e he
  fin_cases he <;> exact decodesPlain_of_row rfl (by decide)

/-- Settles O12: five rows of class OPERATE. -/
theorem integerOperateGroupsDecode : Obligations.IntegerOperateGroupsDecode := by
  unfold Obligations.IntegerOperateGroupsDecode
  intro hi fc lo e he
  fin_cases he <;> exact decodesPlain_of_row rfl (by decide)

/-- Settles O13: four rows of class FLOAT, all FP. -/
theorem floatOperateGroupsDecode : Obligations.FloatOperateGroupsDecode := by
  unfold Obligations.FloatOperateGroupsDecode
  intro hi fc lo e he
  fin_cases he <;> exact decodesFp_of_row rfl (by decide)

/-- Settles O14: the five hardware-internal rows. -/
theorem hardwareInternalGroupsDecode : Obligations.HardwareInternalGroupsDecode := by
  unfold Obligations.HardwareInternalGroupsDecode
  intro fc e he
  fin_cases he <;> exact decodesHw_of_row rfl

/-- Settles O15: eight rows of class MEMORY, all FP. -/
theorem floatMemoryGroupsDecode : Obligations.FloatMemoryGroupsDecode := by
  unfold Obligations.FloatMemoryGroupsDecode
  intro bits e he
  fin_cases he <;> exact decodesFp_of_row rfl (by decide)

/-- Settles O16: eight rows of class MEMORY with no gate. -/
theorem highMemoryGroupsDecode : Obligations.HighMemoryGroupsDecode := by
  unfold Obligations.HighMemoryGroupsDecode
  intro bits e he
  fin_cases he <;> exact decodesPlain_of_row rfl (by decide)

/-- Settles O17: six rows of class BRANCH, all FP. -/
theorem floatBranchGroupsDecode : Obligations.FloatBranchGroupsDecode := by
  unfold Obligations.FloatBranchGroupsDecode
  intro bits e he
  fin_cases he <;> exact decodesFp_of_row rfl (by decide)

/-- Settles O18: ten rows of class BRANCH with no gate. -/
theorem integerBranchGroupsDecode : Obligations.IntegerBranchGroupsDecode := by
  unfold Obligations.IntegerBranchGroupsDecode
  intro bits e he
  fin_cases he <;> exact decodesPlain_of_row rfl (by decide)

/-! ### The words of the worked examples -/

/-- A word decodes to the instruction it is the encoding of (R110, R111). -/
theorem decodeWord_of_encode {i : Instr} {w : Word} (h : encode i = w) : decodeWord w = i := by
  rw [← h, decodeWord_encode]

/-- Settles O6: each word is the encoding of its instruction. -/
theorem workedExampleWordsDecode : Obligations.WorkedExampleWordsDecode := by
  unfold Obligations.WorkedExampleWordsDecode
  refine ⟨?_, ?_, ?_, ?_, ?_, ?_, ?_⟩ <;> exact decodeWord_of_encode rfl

end Sys2Proof.Proofs
end

section
/-! PROOFS. The fault and trap classifier: its tables (O38, O40), the events it raises (O39, O41), and the record of a memory
fault (O42). -/

namespace Sys2Proof.Proofs

open Sys2Proof.Machine Sys2Proof.Laws

/-! ### The translation outcomes -/

/-- On either side NONE is the class of SUCCESS alone (R304). -/
theorem mapTranslationFault_eq_none {r : TranslationResult} {i : Bool} : mapTranslationFault r i = .none ↔ r = .success := by
  cases i
  · change mapDTranslationFault r = .none ↔ _
    cases r <;> simp [mapDTranslationFault]
  · change mapITranslationFault r = .none ↔ _
    cases r <;> simp [mapITranslationFault]

theorem isRecoverableFault_iff {cls : TrapClass} :
    isRecoverableFault cls = true ↔ cls ∈ [TrapClass.itbMiss, .dtbMiss, .itbFault, .dtbFault] := by cases cls <;> decide

theorem isTerminalFault_iff {cls : TrapClass} :
    isTerminalFault cls = true ↔ cls ∈ [TrapClass.machineCheck, .doubleFault] := by cases cls <;> decide

/-- Settles O38: both tables row by row, then what is derived from them. -/
theorem translationOutcomesAreClassified : Obligations.TranslationOutcomesAreClassified := by
  unfold Obligations.TranslationOutcomesAreClassified
  refine ⟨fun r => ?_, fun r => ?_, fun r => ⟨rfl, rfl⟩, fun _ _ => mapTranslationFault_eq_none,
    fun _ => isRecoverableFault_iff, fun _ => isTerminalFault_iff⟩
  · cases r <;> rfl
  · cases r <;> rfl

/-- Settles O39: NONE is the class of SUCCESS alone, and every other class is raised. -/
theorem translationFaultIsReported : Obligations.TranslationFaultIsReported := by
  unfold Obligations.TranslationFaultIsReported
  intro s c x r i va w hx
  rw [reportTranslationFault, withCpu_some hx]
  refine ⟨fun hr => ?_, fun hr => ?_⟩
  · have hnone : mapTranslationFault r i = .none := mapTranslationFault_eq_none.mpr hr
    simp only [hnone, if_true]
  · have hcls : mapTranslationFault r i ≠ .none := mapTranslationFault_eq_none.not.mpr hr
    simp only [if_neg hcls, raise_eq, touchBank_params, raiseTrap, exceptionEvent]

/-! ### The MM status -/

/-- Under the default table a status is its bits 2..0 looked up in the default machine (R310, R312). -/
theorem decodeMMStat_of_default {p : Params} (h : p.mmStat = mmStatDefault) (bits : Nat) (w : Bool) :
    decodeMMStat p bits w = decodeMMStat Params.default (bits % 8) w := by
  simp only [decodeMMStat, h, Nat.mod_mod, Params.default]

/-- Settles O40: code by code in the default table. -/
theorem mmStatusIsDecoded : Obligations.MmStatusIsDecoded := by
  unfold Obligations.MmStatusIsDecoded
  intro p bits w hp
  rw [decodeMMStat_of_default hp]
  refine ⟨fun hb => ?_, fun hb => ?_, fun hb => ?_, fun hb => ?_, fun hb => ?_, fun hb => ?_⟩
  · interval_cases bits % 8 <;> rfl
  all_goals rw [hb]; cases w <;> rfl

/-! ### Arithmetic exceptions and machine checks -/

/-- A word of ARITH_W bits is the arithmetic word (R316). -/
theorem arithWord_of_lt {p : Params} {v : Quad} (hv : v.toNat < 2 ^ p.arithW) : arithWord p v = v := by
  apply BitVec.eq_of_toNat_eq
  simp [arithWord, Nat.mod_eq_of_lt hv, Nat.mod_eq_of_lt v.isLt]

/-- Settles O41: the word is its own arithmetic word, so it is classified and posted as it stands. -/
theorem arithmeticAndMachineCheckAreRaised : Obligations.ArithmeticAndMachineCheckAreRaised := by
  unfold Obligations.ArithmeticAndMachineCheckAreRaised
  intro s c x v info hx hv
  have hword : arithWord s.params v = v := arithWord_of_lt hv
  have hclass : classifyArith s.params v = if v = 0 then .none else .arithmetic := by rw [classifyArith, hword]
  refine ⟨hclass, fun h0 => ?_, fun h0 => ?_, ?_⟩
  · rw [reportArith, withCpu_some hx, touchBank_params, hclass, if_pos h0, if_neg (by decide)]
  · rw [reportArith, withCpu_some hx, touchBank_params, hclass, if_neg h0, if_pos rfl, hword, raise_eq, touchBank_params]
    rfl
  · rw [raiseMachineCheck, withCpu_some hx, raise_eq, touchBank_params]
    rfl

/-! ### The record of a memory fault -/

section
variable {m : MemoryFaultInfo}

theorem canonicalFields_of_execute (h : m.base.isExecute = true) :
    m.canonicalAccessType = .execute ∧ m.canonicalTBDomain = .itb := by
  simp [MemoryFaultInfo.canonicalAccessType, MemoryFaultInfo.canonicalTBDomain, h]

theorem canonicalFields_of_not_execute (h : m.base.isExecute = false) :
    m.canonicalTBDomain = .dtb ∧ m.canonicalAccessType = if m.base.isWrite then .write else .read := by
  simp [MemoryFaultInfo.canonicalAccessType, MemoryFaultInfo.canonicalTBDomain, h]

/-- Each named size is the access size of that many bytes (R321). -/
theorem canonicalAccessSize_iff :
    (m.canonicalAccessSize = .b1 ↔ m.base.accessSize.toNat = 1) ∧ (m.canonicalAccessSize = .b2 ↔ m.base.accessSize.toNat = 2) ∧
    (m.canonicalAccessSize = .b4 ↔ m.base.accessSize.toNat = 4) ∧
    (m.canonicalAccessSize = .b8 ↔ m.base.accessSize.toNat = 8) := by
  simp only [MemoryFaultInfo.canonicalAccessSize, BitVec.toNat_eq]
  split_ifs <;> simp_all

end

/-- Settles O42: the captured record is the base with the CPU's own fields, and the rest is read from the base. -/
theorem faultInfoIsCaptured : Obligations.FaultInfoIsCaptured := by
  unfold Obligations.FaultInfoIsCaptured
  intro s c x base hx
  let m := captureInfo x base
  exact ⟨m, by rw [captureFaultInfo, withCpu_some hx], rfl, rfl, rfl, rfl, canonicalFields_of_execute (m := m),
    canonicalFields_of_not_execute (m := m), canonicalAccessSize_iff⟩

end Sys2Proof.Proofs
end

section
/-! PROOFS. Building a PalResult: what each setter sets (O43); and what applying one writes to the CPU (O44). -/

namespace Sys2Proof.Proofs

open Sys2Proof.Machine Sys2Proof.Laws

/-! ### The effect bits and the setters -/

/-- No two effects share a bit (R342). -/
theorem effectBit_inj {e e' : PipelineEffect} : e.bit = e'.bit ↔ e = e' := by
  cases e <;> cases e' <;> decide

theorem effectBit_lt (e : PipelineEffect) : e.bit < 32 := by cases e <;> decide

/-- ORing in the mask of an effect sets its bit and no other (R342). -/
theorem getLsbD_or_mask (m : BitVec 32) (e : PipelineEffect) (n : Nat) :
    (m ||| e.mask).getLsbD n = (decide (n = e.bit) || m.getLsbD n) := getLsbD_or_bit (effectBit_lt e) m n

/-- As `getLsbD_or_mask`, for a setter of two effects (R349). -/
theorem getLsbD_or_two_masks (m : BitVec 32) (e₁ e₂ : PipelineEffect) (n : Nat) :
    (m ||| (e₁.mask ||| e₂.mask)).getLsbD n = (decide (n = e₁.bit ∨ n = e₂.bit) || m.getLsbD n) := by
  rw [← BitVec.or_assoc, getLsbD_or_mask, getLsbD_or_mask, ← Bool.or_assoc, ← Bool.decide_or]
  simp only [or_comm]

/-- ORing in the mask of an effect sets that effect and no other (R342, R343). -/
theorem hasEffect_or_mask (m : BitVec 32) (e e' : PipelineEffect) :
    hasEffect (m ||| e.mask) e' = (decide (e' = e) || hasEffect m e') := by
  simp only [hasEffect, getLsbD_or_mask, effectBit_inj]

theorem hasEffect_or_two_masks (m : BitVec 32) (e₁ e₂ e' : PipelineEffect) :
    hasEffect (m ||| (e₁.mask ||| e₂.mask)) e' = (decide (e' = e₁ ∨ e' = e₂) || hasEffect m e') := by
  simp only [hasEffect, getLsbD_or_two_masks, effectBit_inj]

section
variable (r : PalResult) (pc code : Quad)

/-! Each setter ORs in the mask of its effect (R344-R348, R350), `halt` those of its two (R349). -/

theorem tlbModified_sideEffects : r.tlbModified.sideEffects = r.sideEffects ||| PipelineEffect.tlbModified.mask := rfl
theorem iplChanged_sideEffects : r.iplChanged.sideEffects = r.sideEffects ||| PipelineEffect.iplChanged.mask := rfl
theorem memoryBarrier_sideEffects :
    r.memoryBarrier.sideEffects = r.sideEffects ||| PipelineEffect.memoryBarrier.mask := rfl
theorem drainWriteBuffers_sideEffects :
    r.drainWriteBuffers.sideEffects = r.sideEffects ||| PipelineEffect.drainWriteBuffers.mask := rfl
theorem requestPipelineFlush_sideEffects :
    (r.requestPipelineFlush pc).sideEffects = r.sideEffects ||| PipelineEffect.pipelineFlush.mask := rfl
theorem halt_sideEffects :
    (r.halt code).sideEffects = r.sideEffects ||| (PipelineEffect.halt.mask ||| PipelineEffect.notifyHalt.mask) := rfl
theorem contextSwitch_sideEffects :
    r.contextSwitch.sideEffects = r.sideEffects ||| PipelineEffect.contextSwitch.mask := rfl

/-- The setters without a data field write `sideEffects` alone (R344-R347, R350). -/
theorem setters_frame : ∀ q ∈ [r.tlbModified, r.iplChanged, r.memoryBarrier, r.drainWriteBuffers, r.contextSwitch],
    { q with sideEffects := r.sideEffects } = r := by
  simp only [List.forall_mem_cons, List.not_mem_nil, false_implies, implies_true, and_true]
  exact ⟨rfl, rfl, rfl, rfl, rfl⟩

end

/-- The eight effects stand at R342's positions. -/
theorem effectBit_eq_position :
    ∀ e ∈ [(PipelineEffect.tlbModified, 0), (.iplChanged, 1), (.memoryBarrier, 2), (.drainWriteBuffers, 3),
        (.pipelineFlush, 4), (.halt, 5), (.notifyHalt, 6), (.contextSwitch, 7)], e.1.bit = e.2 := by decide

/-- Settles O43: each setter ORs in the mask of its effect, which has that effect's bit alone. -/
theorem settersSetTheirOwnBits : Obligations.SettersSetTheirOwnBits := by
  unfold Obligations.SettersSetTheirOwnBits
  intro r pc code n
  rw [tlbModified_sideEffects, iplChanged_sideEffects, memoryBarrier_sideEffects, drainWriteBuffers_sideEffects,
    requestPipelineFlush_sideEffects, halt_sideEffects, contextSwitch_sideEffects]
  have hset := fun e => getLsbD_or_mask r.sideEffects e n
  have heff := hasEffect_or_mask r.sideEffects
  have hpos := effectBit_eq_position
  exact ⟨hset .tlbModified, hset .iplChanged, hset .memoryBarrier, hset .drainWriteBuffers, hset .pipelineFlush,
    getLsbD_or_two_masks r.sideEffects .halt .notifyHalt n, hset .contextSwitch, rfl, rfl, rfl, rfl, setters_frame r,
    fun e he => ⟨hpos e he, congrArg (1#32 <<< ·) (hpos e he), congrArg r.sideEffects.getLsbD (hpos e he)⟩,
    heff .tlbModified, heff .iplChanged, heff .memoryBarrier, heff .drainWriteBuffers, heff .pipelineFlush,
    hasEffect_or_two_masks r.sideEffects .halt .notifyHalt, heff .contextSwitch⟩

/-! ### Applying -/

/-- A halted CPU has no step that applies a PalResult (R353). -/
theorem applyPalResult_halted {s : State} {c : Nat} {x : CpuState} (hx : s.touchBank.cpu? c = some x) (hh : x.halted = true)
    (r : PalResult) (order : List PipelineEffect) : applyPalResult c r order s = .fault .cpuHalted := by
  rw [applyPalResult, withCpu_some hx, if_pos hh]

section
variable (x : CpuState) (r : PalResult)

/-- The ASN after applying is the flagged delta, or as before (R354). -/
theorem applyToCpu_asn : (applyToCpu x r).asn = if r.asnModified then r.newASN else x.asn := by
  rw [CpuState.asn, applyToCpu_pctx]
  split
  · exact pctxWithAsn_asn _ _
  · rfl

/-- The bits of PCTX outside the ASN are as before (R354). -/
theorem applyToCpu_pctx_other {n : Nat} (hn : ¬ (39 ≤ n ∧ n ≤ 46)) :
    (applyToCpu x r).pctx.getLsbD n = x.pctx.getLsbD n := by
  rw [applyToCpu_pctx]
  split
  · exact pctxWithAsn_other _ _ hn
  · rfl

/-- Only a PalResult that returns clears PAL mode (R351 step 4). -/
theorem applyToCpu_palMode_eq_ite : (applyToCpu x r).palMode = if r.doesReturn then false else x.palMode := by
  rw [applyToCpu_palMode]
  cases r.doesReturn <;> rfl

/-- The HALT bit halts a running CPU (R353). -/
theorem applyToCpu_halted_of_running (hh : x.halted = false) : (applyToCpu x r).halted = r.sideEffects.getLsbD 5 := by
  rw [applyToCpu_halted, hasEffect_effectBits, hh, Bool.or_false]
  rfl

/-- The halt code is written with the HALT bit only (R353). -/
theorem applyToCpu_haltCode_eq_ite :
    (applyToCpu x r).haltCode = if r.sideEffects.getLsbD 5 then r.haltCode else x.haltCode := by
  rw [applyToCpu_haltCode, hasEffect_effectBits]
  rfl

/-- Applying a PalResult writes six fields of the CPU and no other (R351 steps 1, 4, 5). -/
theorem applyToCpu_frame : applyToCpu x r =
    { x with cm := (applyToCpu x r).cm, ipl := (applyToCpu x r).ipl, pctx := (applyToCpu x r).pctx,
             palMode := (applyToCpu x r).palMode, halted := (applyToCpu x r).halted,
             haltCode := (applyToCpu x r).haltCode } := by
  rw [applyToCpu_eq]

end

/-- Settles O44: a halted CPU refuses, and a running one becomes `applyToCpu x r`, read field by field. -/
theorem palResultDeltasAreApplied : Obligations.PalResultDeltasAreApplied := by
  unfold Obligations.PalResultDeltasAreApplied
  intro s c x r order hx
  refine ⟨fun hh => applyPalResult_halted hx hh r order, fun hh => ?_⟩
  exact ⟨applyToCpu x r, _, applyPalResult_next hx hh r order, applyToCpu_cm x r, applyToCpu_ipl x r, applyToCpu_asn x r,
    fun _ hn => applyToCpu_pctx_other x r hn, applyToCpu_palMode_eq_ite x r, applyToCpu_halted_of_running x r hh,
    applyToCpu_haltCode_eq_ite x r, applyToCpu_frame x r⟩

end Sys2Proof.Proofs
end

section
/-! PROOFS. The pending sources: what clears a bit of one (O60). -/

namespace Sys2Proof.Proofs

open Sys2Proof.Machine Sys2Proof.Laws

/-! ### What keeps a pending bit -/

theorem postEvent_none {p : Params} {x : CpuState} {e : PendingEvent} (he : e.kind = .none) : postEvent p x e = x := by
  simp only [postEvent, he]

/-- Posting an exception writes the slot alone (R440). -/
theorem postEvent_exception_eq {p : Params} {x : CpuState} {e : PendingEvent} (he : e.kind = .exception) :
    postEvent p x e = { x with slot := (postEvent p x e).slot } := by
  rw [postEvent_exception he]
  (repeat' split) <;> rfl

/-- Posting an event clears no bit of IRQ_PENDING and none of PCTX: an interrupt and an AST set one (R422, R440). -/
theorem postEvent_keeps_bits (p : Params) (x : CpuState) (e : PendingEvent) (n : Nat) :
    (x.irqPending.getLsbD n = true → (postEvent p x e).irqPending.getLsbD n = true) ∧
      (x.pctx.getLsbD n = true → (postEvent p x e).pctx.getLsbD n = true) := by
  cases he : e.kind with
  | none => rw [postEvent_none he]; exact ⟨id, id⟩
  | exception => rw [postEvent_exception_eq he]; exact ⟨id, id⟩
  | interrupt => rw [postEvent_interrupt he]; exact ⟨fun h => by simp [h], id⟩
  | ast => rw [postEvent_ast he]; exact ⟨id, fun h => by simp [h]⟩

section
variable {p : Params} {x y : CpuState} {f : Field} {v : Quad} (h : writeField p x f v = some y)
include h

/-- No accessor writes IRQ_PENDING or IPI_REQUEST as a plain field (R47, R76). -/
theorem writeField_keeps_atomic_sources : y.irqPending = x.irqPending ∧ y.ipiRequest = x.ipiRequest := by
  cases f <;> cases h <;> exact ⟨rfl, rfl⟩

/-- Only the write of SIRR changes SIRR: that of its view SISR is ignored (R35, R36). -/
theorem writeField_sirr (hne : y.sirr ≠ x.sirr) : f = .sirr := by
  cases f <;> cases h
  case sirr => rfl
  all_goals exact absurd rfl hne

/-- Only the write of PCTX changes PCTX (R37, R46). -/
theorem writeField_pctx (hne : y.pctx ≠ x.pctx) : f = .pctx := by
  cases f <;> cases h
  case pctx => rfl
  all_goals exact absurd rfl hne

end

/-- A bit of ASTSR is the bit of PCTX nine places up (R37). -/
theorem astsr_bit (x : CpuState) (n : Nat) : x.astsr.getLsbD n = (decide (n < 4) && x.pctx.getLsbD (9 + n)) := by
  rw [CpuState.astsr, BitVec.getLsbD_extractLsb']

/-- A bit that masking out bit k clears is bit k. -/
theorem eq_of_cleared {w k n : Nat} {b : BitVec w} (hk : k < w) (hb : b.getLsbD n = true)
    (hc : (b &&& ~~~(1#w <<< k)).getLsbD n = false) : n = k := by
  have hn : n < w := BitVec.lt_of_getLsbD hb
  rw [BitVec.getLsbD_and, BitVec.getLsbD_not, getLsbD_bit hk] at hc
  simpa [hb, hn] using hc

/-! ### What clears one -/

section
variable {p : Params} {c n : Nat} {op : Op} {x y : CpuState} (hs : CpuStep p c op x y)
include hs

/-- What of the operations on a bank's CPU clears a bit of IRQ_PENDING: not consuming an event (R422, R433, R451). -/
theorem cpuStep_clears_irqPending (hx : x.irqPending.getLsbD n = true) (hy : y.irqPending.getLsbD n = false) :
    (∃ k : BitVec 5, op = .irqClear c k ∧ n = k.toNat) ∨ (op = .continueIPI c ∧ n = p.ipiLevel.toNat) ∨
      op = .resetCpu c ∨ op = .releaseReset := by
  cases hs with
  | irqClear k => exact .inl ⟨k, rfl, eq_of_cleared k.isLt hx hy⟩
  | ackClear => exact .inr (.inl ⟨rfl, eq_of_cleared p.ipiLevel.isLt hx hy⟩)
  | resetOne | resetAll => simp
  | post e => rw [(postEvent_keeps_bits p x e n).1 hx] at hy; cases hy
  | write _ _ _ _ h => rw [(writeField_keeps_atomic_sources h).1, hx] at hy; cases hy
  | sendInterrupt =>
    dsimp only at hy
    split at hy <;> simp [hx] at hy
  | _ => simp [hx] at hy

/-- What of the operations on a bank's CPU clears a bit of SIRR (R35, R422). -/
theorem cpuStep_clears_sirr (hx : x.sirr.getLsbD n = true) (hy : y.sirr.getLsbD n = false) :
    (∃ v, op = .writeF c .sirr v) ∨ op = .resetCpu c ∨ op = .releaseReset := by
  cases hs with
  | write _ v _ _ h =>
    have hne : y.sirr ≠ x.sirr := fun e => by rw [e, hx] at hy; cases hy
    exact .inl ⟨v, by rw [writeField_sirr h hne]⟩
  | resetOne | resetAll => simp
  | _ => simp [hx] at hy

/-- What of the operations on a bank's CPU clears a bit of ASTSR: applying a PalResult writes the ASN alone, which lies
elsewhere in PCTX (R37, R354, R422). -/
theorem cpuStep_clears_astsr (hx : x.astsr.getLsbD n = true) (hy : y.astsr.getLsbD n = false) :
    (∃ v, op = .writeF c .pctx v) ∨ op = .resetCpu c ∨ op = .releaseReset := by
  rw [astsr_bit, Bool.and_eq_true, decide_eq_true_eq] at hx
  obtain ⟨hn, hx⟩ := hx
  rw [astsr_bit, decide_eq_true hn, Bool.true_and] at hy
  cases hs with
  | write _ v _ _ h =>
    have hne : y.pctx ≠ x.pctx := fun e => by rw [e, hx] at hy; cases hy
    exact .inl ⟨v, by rw [writeField_pctx h hne]⟩
  | resetOne | resetAll => simp
  | post e => rw [(postEvent_keeps_bits p x e _).2 hx] at hy; cases hy
  | apply r => rw [applyToCpu_pctx_other x r (by omega), hx] at hy; cases hy
  | _ => simp [hx] at hy

/-- What of the operations on a bank's CPU takes its IPI request (R451). -/
theorem cpuStep_clears_ipiRequest (hx : x.ipiRequest = true) (hy : y.ipiRequest = false) :
    op = .ackIPI c ∨ op = .resetCpu c ∨ op = .releaseReset := by
  cases hs with
  | ackTake => exact .inl rfl
  | resetOne | resetAll => simp
  | write _ _ _ _ h => rw [(writeField_keeps_atomic_sources h).2, hx] at hy; cases hy
  | _ => simp [hx] at hy

end

/-- A CPU of the bank after a step is one `initBank` built, or comes from what it was by a `CpuStep` (R30, R53). -/
theorem step_cpu_back {s t : State} {r : Request} {rest : List Request} {c : Nat} {x y : CpuState}
    (hr : s.requests = r :: rest) (hx : s.cpu? c = some x) (h : step s = .next t) (hy : t.cpu? c = some y) :
    r.op = .initBank ∨ CpuStep s.params c r.op x y := by
  obtain ⟨hop, -⟩ | ⟨x', hx', hstep⟩ := perform_cpu_back (perform_of_step hr h) hy
  · exact .inl hop
  · rw [touchBank_of_cpu? (s := s.popRequest rest) hx, cpu?_popRequest, hx] at hx'
    cases hx'
    exact .inr hstep

/-- Settles O60: the bank's rebuilding counts as a reset, and of everything else a step can do to a CPU the four lemmas above
say what clears a bit of each source. -/
theorem sourcesStayPendingUntilCleared : Obligations.SourcesStayPendingUntilCleared := by
  unfold Obligations.SourcesStayPendingUntilCleared
  intro s t r rest c x y n hr hx h hy isReset
  obtain hinit | hs := step_cpu_back hr hx h hy
  · have hreset : isReset := .inr (.inr hinit)
    exact ⟨fun _ _ => .inr (.inr hreset), fun _ _ => .inr hreset, fun _ _ => .inr hreset, fun _ _ => .inr hreset⟩
  · have hreset : r.op = .resetCpu c ∨ r.op = .releaseReset → isReset := Or.imp_right .inl
    exact ⟨fun h1 h0 => (cpuStep_clears_irqPending hs h1 h0).imp_right (.imp_right hreset),
      fun h1 h0 => (cpuStep_clears_sirr hs h1 h0).imp_right hreset,
      fun h1 h0 => (cpuStep_clears_astsr hs h1 h0).imp_right hreset,
      fun h1 h0 => (cpuStep_clears_ipiRequest hs h1 h0).imp_right hreset⟩

end Sys2Proof.Proofs
end

section
/-! PROOFS. The arbiter: the AST target (O29), the interrupt level (O30), the priority of events (O31), and consuming the event
it picks (O33, O34). -/

namespace Sys2Proof.Proofs

open Sys2Proof.Machine Sys2Proof.Laws

/-! ### AST eligibility -/

theorem astCandidate_iff {en sum : BitVec 4} {mode t : Mode} :
    astCandidate (sum &&& en) mode t = true ↔ AstCandidate en sum mode t := by
  simp [astCandidate, and_assoc]

/-- The modes from the most to the least privileged one, as R410 tries them. -/
def modesByPrivilege : List Mode := [.kernel, .executive, .supervisor, .user]

theorem mem_modesByPrivilege (t : Mode) : t ∈ modesByPrivilege := by cases t <;> decide

theorem modesByPrivilege_sorted : modesByPrivilege.Pairwise fun t u => Mode.code t ≤ Mode.code u := by decide

/-- The first mode that meets f is the most privileged one that does (R411). -/
theorem find?_modesByPrivilege_le {f : Mode → Bool} {t u : Mode} (ht : modesByPrivilege.find? f = some t) (hu : f u = true) :
    Mode.code t ≤ Mode.code u := by
  obtain ⟨-, before, after, hsplit, hbefore⟩ := List.find?_eq_some_iff_append.mp ht
  have hsorted := modesByPrivilege_sorted
  have hmem := mem_modesByPrivilege u
  rw [hsplit] at hsorted hmem
  rw [List.mem_append, List.mem_cons] at hmem
  obtain hmem | rfl | hmem := hmem
  · have := hbefore u hmem
    simp [hu] at this
  · exact BitVec.le_refl _
  · exact (List.pairwise_cons.mp (List.pairwise_append.mp hsorted).2.1).1 u hmem

/-- What `computeEligibility` answers: nothing where the IPL is above 2 or no mode is a candidate, else the most privileged
candidate (R410, R411). -/
theorem computeEligibility_cases (en sum : BitVec 4) (mode : Mode) (ipl : BitVec 5) :
    ((2 < ipl.toNat ∨ ∀ t, ¬ AstCandidate en sum mode t) ∧ computeEligibility en sum mode ipl = notEligible) ∨
      ∃ t, ipl.toNat ≤ 2 ∧ AstCandidate en sum mode t ∧ (∀ u, AstCandidate en sum mode u → Mode.code t ≤ Mode.code u) ∧
        computeEligibility en sum mode ipl = ⟨true, t⟩ := by
  unfold computeEligibility
  split
  case isTrue hipl => exact .inl ⟨.inl hipl, rfl⟩
  case isFalse hipl =>
    split
    case h_1 t ht =>
      exact .inr ⟨t, Nat.le_of_not_lt hipl, astCandidate_iff.mp (List.find?_some ht),
        fun u hu => find?_modesByPrivilege_le ht (astCandidate_iff.mpr hu), rfl⟩
    case h_2 hnone =>
      have hno := List.find?_eq_none.mp hnone
      exact .inl ⟨.inr fun t ht => hno t (mem_modesByPrivilege t) (astCandidate_iff.mpr ht), rfl⟩

/-- Settles O29: the two answers of `computeEligibility_cases`. -/
theorem astTargetIsMostPrivileged : Obligations.AstTargetIsMostPrivileged := by
  unfold Obligations.AstTargetIsMostPrivileged
  intro en sum mode ipl r
  obtain ⟨hno, hr : r = _⟩ | ⟨t, hipl, ht, hmost, hr : r = _⟩ := computeEligibility_cases en sum mode ipl <;> rw [hr]
  · refine ⟨iff_of_false Bool.false_ne_true ?_, fun h => absurd h Bool.false_ne_true⟩
    rintro ⟨hipl, t, ht⟩
    obtain hgt | hnone := hno
    · omega
    · exact hnone t ht
  · exact ⟨iff_of_true rfl ⟨hipl, t, ht⟩, fun _ => ⟨ht, hmost⟩⟩

/-! ### Interrupt levels -/

theorem intrLevel_eq_some {p : Params} {x : CpuState} {n : Nat} :
    intrLevel p x = some n ↔ Deliverable p x n ∧ ∀ m, Deliverable p x m → m ≤ n := by
  simp only [intrLevel, highestFrom_some, ← deliverable_iff, and_imp, and_assoc]

theorem intrLevel_eq_none {p : Params} {x : CpuState} : intrLevel p x = none ↔ ∀ n, ¬ Deliverable p x n := by
  simp only [intrLevel, highestFrom_none, ← deliverable_iff, not_and, Bool.not_eq_true]

/-- Settles O30: the search from level 31 down, its levels in R420's words. -/
theorem interruptLevelIsTheHighestDeliverable : Obligations.InterruptLevelIsTheHighestDeliverable := by
  unfold Obligations.InterruptLevelIsTheHighestDeliverable
  exact fun p x => ⟨fun n => intrLevel_eq_some, intrLevel_eq_none⟩

/-! ### Priority -/

section
variable {p : Params} {x : CpuState}

theorem arbitrate_exception (h : x.slot.kind = .exception) : arbitrate p x = x.slot := if_pos h

/-- PAL mode masks everything but an exception in the slot (R430 step 3). -/
theorem arbitrate_palMode (h : x.slot.kind ≠ .exception) (hpal : x.palMode = true) : arbitrate p x = PendingEvent.empty := by
  rw [arbitrate, if_neg h, if_pos hpal]

section
variable (h : x.slot.kind ≠ .exception) (hpal : x.palMode = false)
include h hpal

theorem arbitrate_interrupt {n : Nat} (hn : intrLevel p x = some n) : arbitrate p x = interruptEvent p n := by
  simp only [arbitrate, if_neg h, hpal, Bool.false_eq_true, if_false, hn]

theorem arbitrate_ast (hn : intrLevel p x = none) (hast : (astElig x).eligible = true) :
    arbitrate p x = astEvent p (astElig x).targetMode := by
  simp only [arbitrate, if_neg h, hpal, Bool.false_eq_true, if_false, hn, if_pos hast]

theorem arbitrate_nothing (hn : intrLevel p x = none) (hast : (astElig x).eligible = false) :
    arbitrate p x = PendingEvent.empty := by
  simp only [arbitrate, if_neg h, hpal, Bool.false_eq_true, if_false, hn, hast]

end

/-- Only the slot delivers an exception (R430). -/
theorem arbitrate_kind_exception : (arbitrate p x).kind = .exception ↔ x.slot.kind = .exception := by
  by_cases h : x.slot.kind = .exception
  · rw [arbitrate_exception h]
  · refine iff_of_false ?_ h
    rw [arbitrate, if_neg h]
    (repeat' split) <;> simp [PendingEvent.empty, interruptEvent, astEvent]

end

/-- Settles O31: one branch of `arbitrate` for each event, the interrupt level in R420's words. -/
theorem arbiterPriority : Obligations.ArbiterPriority := by
  unfold Obligations.ArbiterPriority
  intro p x ast
  refine ⟨arbitrate_exception, arbitrate_palMode, fun h hpal =>
    ⟨fun n hn hmax => ?_, fun hnone hast => ?_, fun hnone hast => ?_⟩⟩
  · exact arbitrate_interrupt h hpal (intrLevel_eq_some.mpr ⟨hn, hmax⟩)
  · exact arbitrate_ast h hpal (intrLevel_eq_none.mpr hnone) hast
  · exact arbitrate_nothing h hpal (intrLevel_eq_none.mpr hnone) hast

/-! ### Consuming an event -/

section
variable (x : CpuState) {e : PendingEvent}

theorem consume_none (h : e.kind = .none) : consume x e = x := by simp only [consume, h]

theorem consume_exception (h : e.kind = .exception) :
    consume x e = { x with slot := PendingEvent.empty, palMode := true } := by simp only [consume, h]

theorem consume_interrupt_or_ast (h : e.kind = .interrupt ∨ e.kind = .ast) : consume x e = { x with palMode := true } := by
  obtain h | h := h <;> simp only [consume, h]

end

theorem consumeEvent_halted {s : State} {c : Nat} {x : CpuState} (hx : s.touchBank.cpu? c = some x) (hh : x.halted = true) :
    consumeEvent c s = .fault .cpuHalted := by
  simp only [consumeEvent, withCpu_some hx, if_pos hh]

/-- Settles O33: on a running CPU `consumeEvent` is `consume` of what the arbiter picks, kind by kind, after the record of the
arbiter's loads. -/
theorem consumeEventEntersPalMode : Obligations.ConsumeEventEntersPalMode := by
  unfold Obligations.ConsumeEventEntersPalMode
  intro s c x hx
  refine ⟨consumeEvent_halted hx, fun hh => ⟨(x.arbiterLoads c).ipiSeen, ?_⟩⟩
  rw [consumeEvent_next hx hh]
  refine ⟨fun hk => ?_, fun hk => ?_, fun hk => ?_⟩
  · rw [consume_none _ hk]; rfl
  · rw [consume_exception _ hk]; rfl
  · rw [consume_interrupt_or_ast _ hk]; rfl

/-- Consuming the event the arbiter picks leaves PAL mode on and no exception in the slot (R433). -/
theorem consume_arbitrate {p : Params} {x : CpuState} (h : (arbitrate p x).kind ≠ .none) :
    (consume x (arbitrate p x)).slot.kind ≠ .exception ∧ (consume x (arbitrate p x)).palMode = true := by
  by_cases hk : (arbitrate p x).kind = .exception
  · rw [consume_exception x hk]
    exact ⟨by simp [PendingEvent.empty], rfl⟩
  · have hsource : (arbitrate p x).kind = .interrupt ∨ (arbitrate p x).kind = .ast := by
      cases hk' : (arbitrate p x).kind <;> simp_all
    have hslot : x.slot.kind ≠ .exception := mt arbitrate_kind_exception.mpr hk
    rw [consume_interrupt_or_ast x hsource]
    exact ⟨hslot, rfl⟩

/-- Settles O34: the arbiter picks nothing in PAL mode without an exception in the slot, whatever else the CPU holds. -/
theorem consumedEventIsNotTakenAgain : Obligations.ConsumedEventIsNotTakenAgain := by
  unfold Obligations.ConsumedEventIsNotTakenAgain
  intro p x h y
  obtain ⟨hslot, hpal⟩ : y.slot.kind ≠ .exception ∧ y.palMode = true := consume_arbitrate h
  exact ⟨arbitrate_palMode hslot hpal, consume_irqPending _ _, consume_sirr _ _, consume_ipiRequest _ _, consume_pctx _ _,
    consume_ipl _ _, consume_cm _ _, fun z hz hzpal => arbitrate_palMode (hz ▸ hslot) (hzpal.trans hpal)⟩

end Sys2Proof.Proofs
end

section
/-! PROOFS. The slot: that it drops no fault (O36), and the query for a translation fault in it (O37). -/

namespace Sys2Proof.Proofs

open Sys2Proof.Machine Sys2Proof.Laws

/-- What the slot holds after an exception is posted: the new one, where it held none or the new one is a machine check; what
it held, which is terminal; or what it held, escalated (R440). -/
theorem postEvent_slot_cases (p : Params) (x : CpuState) {e : PendingEvent} (he : e.kind = .exception) :
    ((postEvent p x e).slot = e.cut p ∧ (x.slot.kind = .none ∨ e.cls = .machineCheck)) ∨
    (x.slot.kind ≠ .none ∧ (x.slot.cls = .machineCheck ∨ x.slot.cls = .doubleFault) ∧ (postEvent p x e).slot = x.slot) ∨
    (x.slot.kind ≠ .none ∧
      (postEvent p x e).slot = { x.slot with cls := .doubleFault, vector := vectorOf p .doubleFault }) := by
  rw [postEvent_exception he]
  split_ifs with hkind hmc hnew hdf
  · exact .inl ⟨rfl, .inl hkind⟩
  · exact .inr (.inl ⟨hkind, .inl hmc, rfl⟩)
  · exact .inl ⟨rfl, .inr hnew⟩
  · exact .inr (.inl ⟨hkind, .inr hdf, rfl⟩)
  · exact .inr (.inr ⟨hkind, rfl⟩)

/-- Under the invariant a slot that is not NONE holds an exception (R441). -/
theorem slot_kind_exception {p : Params} {x : CpuState} (hwf : x.wf p = true) (h : x.slot.kind ≠ .none) :
    x.slot.kind = .exception := by
  obtain ⟨hempty | ⟨hexc, -⟩, -⟩ := cpuState_wf.mp hwf
  · rw [hempty] at h; exact absurd rfl h
  · exact hexc

/-- Settles O36: the three cases of the slot after an exception is posted. -/
theorem noFaultIsDropped : Obligations.NoFaultIsDropped := by
  unfold Obligations.NoFaultIsDropped
  intro p x e hwf he
  refine ⟨postEvent_wf hwf, ?_⟩
  obtain ⟨hslot, hwhy⟩ | ⟨hheld, hterm, hslot⟩ | ⟨hheld, hslot⟩ := postEvent_slot_cases p x he <;> rw [hslot]
  · refine ⟨he, .inl rfl, fun hexc hnew => ?_⟩
    obtain hfree | hmc := hwhy
    · rw [hexc] at hfree; cases hfree
    · exact absurd hmc hnew
  · exact ⟨slot_kind_exception hwf hheld, .inr hterm, fun _ _ => ⟨rfl, rfl, rfl, rfl, rfl⟩⟩
  · exact ⟨slot_kind_exception hwf hheld, .inr (.inr rfl), fun _ _ => ⟨rfl, rfl, rfl, rfl, rfl⟩⟩

theorem isTranslationClass_iff {cls : TrapClass} :
    isTranslationClass cls = true ↔ cls ∈ [TrapClass.itbMiss, .dtbMiss, .itbFault, .dtbFault, .itbAcv, .dtbAcv] := by
  cases cls <;> decide

/-- Settles O37: the query answers from the slot and writes nothing. -/
theorem translationFaultQuery : Obligations.TranslationFaultQuery := by
  unfold Obligations.TranslationFaultQuery
  intro a s c x va hx
  refine ⟨hasPendingTranslationFault x va, by rw [perform, withCpu_some hx], ?_⟩
  rw [hasPendingTranslationFault, Bool.and_eq_true, Bool.and_eq_true, isTranslationClass_iff, Bool.or_eq_true]
  simp only [decide_eq_true_eq, and_assoc]

end Sys2Proof.Proofs
end

section
/-! PROOFS. The lines of the inter-processor operations, run one after the other (O47, O48). -/

namespace Sys2Proof.Proofs

open Sys2Proof.Machine Sys2Proof.Laws

/-! ### sendIPI -/

theorem cpu?_setBusy_other (s : State) {c d : Nat} (h : d ≠ c) (l : Option IpiLine) : (s.setBusy c l).cpu? d = s.cpu? d := by
  unfold State.setBusy
  split
  · exact cpu?_setCpu_other _ h _
  · rfl

/-- What a line of `sendIPI` by `src`, whose state was `xs`, leaves of s: the destination's state y, and the sender's next line
l, which is also the destination's where the two are one CPU (R450; log 13). -/
structure AfterLine (s t : State) (src dst : Nat) (xs y : CpuState) (l : Option IpiLine) : Prop where
  params : t.params = s.params
  receiver : t.cpu? dst = some { y with busy := if dst = src then l else y.busy }
  sender : t.cpu? src = some { (if src = dst then y else xs) with busy := l }
  others : ∀ d, d ≠ src → d ≠ dst → t.cpu? d = s.cpu? d

theorem afterLine {s : State} {src dst : Nat} {xs xd : CpuState} (hs : s.cpu? src = some xs) (hd : s.cpu? dst = some xd)
    (y : CpuState) (l : Option IpiLine) : AfterLine s ((s.setCpu dst y).setBusy src l) src dst xs y l where
  params := by simp
  receiver := by rw [cpu?_setCpu_setBusy hd hs, if_pos rfl]
  sender := by rw [cpu?_setCpu_setBusy hs hs, if_pos rfl]
  others d hsrc hdst := by rw [cpu?_setBusy_other _ hsrc, cpu?_setCpu_other _ hdst]

theorem sendIPI_afterLine {s : State} {src dst : Nat} {xs xd : CpuState} (hs : s.touchBank.cpu? src = some xs)
    (hd : s.touchBank.cpu? dst = some xd) (data : Quad) : ∃ t, sendIPI src dst data s = .next t ∧
      AfterLine s.touchBank t src dst xs { xd with ipiData := data } (some (.sendRequest dst)) :=
  ⟨_, sendIPI_next hs hd data, afterLine hs hd _ _⟩

section
variable {s : State} {src dst : Nat} {xs xd : CpuState} (hs : s.cpu? src = some xs)
include hs

theorem continueIPI_sendRequest_afterLine (hb : xs.busy = some (.sendRequest dst)) (hd : s.cpu? dst = some xd) :
    ∃ t, continueIPI src s = .next t ∧ AfterLine s t src dst xs (setIpiRequest xd) (some (.sendInterrupt dst)) :=
  ⟨_, continueIPI_sendRequest hs hb hd, afterLine hs hd _ _⟩

theorem continueIPI_sendInterrupt_afterLine (hb : xs.busy = some (.sendInterrupt dst)) (hd : s.cpu? dst = some xd) :
    ∃ t, continueIPI src s = .next t ∧ AfterLine s t src dst xs (setIpiInterrupt s.params xd) none :=
  ⟨_, continueIPI_sendInterrupt hs hb hd, afterLine hs hd _ _⟩

end

/-- Settles O47: the three lines one after the other, each from what the one before it left. -/
theorem sendIpiPublishesThenRequests : Obligations.SendIpiPublishesThenRequests := by
  unfold Obligations.SendIpiPublishesThenRequests
  intro s src dst data xs xd hs hd
  obtain ⟨s1, h1, a1⟩ := sendIPI_afterLine hs hd data
  obtain ⟨s2, h2, a2⟩ := continueIPI_sendRequest_afterLine a1.sender rfl a1.receiver
  obtain ⟨s3, h3, a3⟩ := continueIPI_sendInterrupt_afterLine a2.sender rfl a2.receiver
  have hp : s2.params = s.params := by rw [a2.params, a1.params, touchBank_params]
  refine ⟨s1, s2, s3, _, _, _, h1, h2, h3, a1.receiver, a2.receiver, a3.receiver, rfl, rfl, rfl, rfl, rfl, rfl, ?_,
    fun hne => ?_, fun d hsrc hdst => ?_⟩
  · rw [hp]
    by_cases hself : dst = src <;> simp [hself, setIpiInterrupt, setIpiRequest, fetchOr, ipiBit]
  · rw [a3.sender]
    simp [hne]
  · rw [a3.others d hsrc hdst, a2.others d hsrc hdst, a1.others d hsrc hdst]

/-! ### ackIPI -/

/-- Settles O48: the three lines one after the other, on the CPU's own state. -/
theorem ackIpiTakesTheRequest : Obligations.AckIpiTakesTheRequest := by
  unfold Obligations.AckIpiTakesTheRequest
  intro s c x hx
  refine ⟨_, _, _, observeIpi x.ipiSeen c x.ipiRequest, ackIPI_next hx,
    continueIPI_ackInterrupt (cpu?_setCpu_same _ hx) rfl,
    continueIPI_ackData (cpu?_setCpu_same _ (cpu?_setCpu_same _ hx)) rfl, rfl, ?_, fun d hd => ?_⟩
  · rw [cpu?_emit, setCpu_setCpu, setCpu_setCpu, cpu?_setCpu_same _ hx, setCpu_params, touchBank_params]
    rfl
  · rw [cpu?_emit, setCpu_setCpu, setCpu_setCpu, cpu?_setCpu_other _ hd]

end Sys2Proof.Proofs
end

section
/-! PROOFS. The reset of one CPU (O53). -/

namespace Sys2Proof.Proofs

open Sys2Proof.Machine Sys2Proof.Laws

/-- `reset(c)` replaces CPU c's event state and writes nothing else (R500). -/
theorem resetCpu_next {s : State} {c : Nat} {x : CpuState} (hx : s.touchBank.cpu? c = some x) :
    resetCpu c s = .next (s.touchBank.setCpu c (CpuState.reset s.params)) := by
  rw [resetCpu, withCpu_some hx, touchBank_params]

/-- Each of the five sources is silent after a reset (R44, R500). -/
theorem hasPendingEvent_reset (p : Params) : hasPendingEvent (CpuState.reset p) = false := by
  have hast : (CpuState.reset p).astsr &&& (CpuState.reset p).asten = 0 := by
    simp [CpuState.astsr, CpuState.asten]
  exact hasPendingEvent_eq_false.mpr ⟨rfl, rfl, rfl, rfl, hast⟩

/-- Settles O53: the new state is `CpuState.reset`; with nothing pending in it, its arbitration answers NONE. -/
theorem resetOfOneCpu : Obligations.ResetOfOneCpu := by
  unfold Obligations.ResetOfOneCpu
  intro s c x hx
  exact ⟨CpuState.reset s.params, resetCpu_next hx, rfl, rfl, rfl, rfl, rfl, rfl, rfl, rfl, rfl, rfl, rfl, rfl, rfl, rfl,
    hasPendingEvent_reset _, arbitrate_of_nothing_pending (hasPendingEvent_reset _)⟩

end Sys2Proof.Proofs
end
